-- ==== Sys2Proof/Word.lean ====
section
/-! DEFINITION. The word types of the engine: every value the spec treats as bits, by its width
(00_scope.md R11; all unsigned). -/

namespace Sys2Proof

/-- One byte, `b[7]` the most significant bit (R11). -/
abbrev Byte := BitVec 8

/-- An APC word (R29), 12 bits. -/
abbrev Word12 := BitVec 12

/-- A message-memory address as an operand, 16 bits (R63, R95). -/
abbrev Addr := BitVec 16

/-- Result data, `RDATA`, 16 bits (R34). -/
abbrev Data := BitVec 16

/-- A variant code, 4 bits (R20). -/
abbrev VariantCode := BitVec 4

/-- A frame buffer: seven logical bytes (R33). -/
abbrev FrameBuffer := Vector Byte 7

end Sys2Proof
end

