-- ==== Sys2Proof/Config.lean ====
section
/-! DEFINITION. The implementation parameters of 00_scope.md R5 that the spec asks to keep symbolic, as
one record of plain data, and the free values: constants with no body, of which no proof knows the value. -/

namespace Sys2Proof

/-- `APC_OFF[f]`: the offset of each of the ten fields of the APC word (R163, decision D8). -/
structure ApcOffsets where
  volume         : Nat
  monitorInput   : Nat
  mixInput       : Nat
  seEditing      : Nat
  spiFt          : Nat
  analogOutput   : Nat
  pwmSpeaker     : Nat
  puAnalogOutput : Nat
  voltageAlert   : Nat
  eomStop        : Nat
  deriving DecidableEq, Repr

/-- The four named one-bit flags of STATUS2 (R27). -/
inductive S2Flag where
  | rdy | erase | play | record
  deriving DecidableEq, Repr

/-- The mask of a polling post-check: that of a STATUS2 flag, or eight bits as they are (R145, 93 U5). -/
inductive PollMask where
  | flag (f : S2Flag)
  | bits (m : Byte)
  deriving DecidableEq, Repr

/-- What an operation does after its command frame: one of none, delay, error check, poll (R5, R200). -/
inductive PostCheck where
  /-- Nothing. -/
  | nothing
  /-- `DELAY(ms)`, no status read. -/
  | settle (ms : Nat)
  /-- `CHECK_STATUS(NoPoll, settle)`. -/
  | errorCheck (settle : Nat)
  /-- `CHECK_STATUS(Poll(mask, timeout), settle)`. -/
  | poll (mask : PollMask) (timeout settle : Nat)
  deriving DecidableEq, Repr

/-- `POSTCHECK[op]`, an entry for every operation of R200's table; a field accessor's entry stands at the field's
index. -/
structure PostChecks where
  powerUp           : PostCheck
  powerDown         : PostCheck
  stop              : PostCheck
  reset             : PostCheck
  clearInterrupt    : PostCheck
  next              : PostCheck
  checkMemory       : PostCheck
  readPlayPointer   : PostCheck
  readRecordPointer : PostCheck
  readDeviceId      : PostCheck
  readApc           : PostCheck
  writeApc          : PostCheck
  setField          : Vector PostCheck 10
  getField          : Vector PostCheck 10
  setVolumeControl  : PostCheck
  writeNvConfig     : PostCheck
  loadNvConfig      : PostCheck
  toggleExtClock    : PostCheck
  setPlayRange      : PostCheck
  setRecordRange    : PostCheck
  setEraseRange     : PostCheck
  play              : PostCheck
  record            : PostCheck
  erase             : PostCheck
  globalErase       : PostCheck
  deriving DecidableEq, Repr

/-- The parameters of R5 that an instance of the engine fixes. No step writes them. The parameters whose
value the spec fixes (`N_VARIANTS`, `END_ADDR`, `OPC`, `L_WR3`, `S1_CMD_ERR`, `APC_W`, `APC_INV`,
`POLL_INTERVAL_MS`) are no fields. -/
structure Params where
  /-- `L_CMD`, length of a command-only frame. -/
  lCmd     : Nat
  /-- `L_RD3`, length of the status and device-id frames. -/
  lRd3     : Nat
  /-- `L_RD4`, length of the pointer and APC read frames. -/
  lRd4     : Nat
  /-- `L_RNG`, length of a range-setter frame. -/
  lRng     : Nat
  /-- `PAD`, the padding byte. -/
  pad      : Byte
  /-- `S1_READY`, `S1_EOM`, `S1_INT`: bit indices of STATUS1. -/
  s1Ready  : Fin 16
  s1Eom    : Fin 16
  s1Int    : Fin 16
  /-- `S2_RDY`, `S2_ERASE`, `S2_PLAY`, `S2_REC`: bit indices of STATUS2. -/
  s2Rdy    : Fin 8
  s2Erase  : Fin 8
  s2Play   : Fin 8
  s2Rec    : Fin 8
  /-- `S2_SE`: the lowest bit and the width of the span of the sound-effect flags. -/
  s2SeLo   : Fin 8
  s2SeW    : Nat
  /-- `APC_OFF[f]`. -/
  apcOff   : ApcOffsets
  /-- `DEVICE_ID[v]`, open, for the ten variants by code (decision D21). -/
  deviceId : Vector Byte 10
  /-- `TW`, width of a timeout or delay operand and of the timeout counter (decision D16). -/
  tw       : Nat
  /-- `POSTCHECK[op]` (R200, decision D15). -/
  postCheck : PostChecks
  /-- `ERRCODE[e]`, in the order of R271 (decision D17). -/
  errCode  : Vector (BitVec 4) 9
  deriving DecidableEq, Repr

/-- FREE VALUE: the success bit of a port call whose answer no list gives (93 U2). -/
opaque Config.freeOk : Nat → Bool

/-- FREE VALUE: the received wire bytes of an exchange whose answer no list gives (93 U2). -/
opaque Config.freeRx : Nat → Fin 7 → Byte

/-- FREE VALUE: `RDATA` after an operation that delivers no data (R34). -/
opaque Config.freeData : Nat → Data

/-- FREE VALUE: the identification byte of each variant in the instance that `State.reset` shows
(decision D21: no default). -/
opaque Config.deviceId : Fin 10 → Byte

end Sys2Proof
end

