-- ==== Sys2Proof/Machine/Defaults.lean ====
section
/-! DEFINITION. The default values of the parameters of 00_scope.md R5 (PRESUMED: the spec marks them
'gk default', from general knowledge), and the constraints R5 puts on any instantiation. -/

namespace Sys2Proof

/-- The offsets' defaults (R163). They tile the twelve bits. -/
def ApcOffsets.default : ApcOffsets where
  volume := 0
  monitorInput := 3
  mixInput := 4
  seEditing := 5
  spiFt := 6
  analogOutput := 7
  pwmSpeaker := 8
  puAnalogOutput := 9
  voltageAlert := 10
  eomStop := 11

/-- The post-check table as R200 prints it (decisions D15, D29). -/
def PostChecks.printed : PostChecks where
  powerUp := .poll (.flag .rdy) 1000 100
  powerDown := .errorCheck 0
  stop := .errorCheck 0
  reset := .settle 100
  clearInterrupt := .errorCheck 0
  next := .errorCheck 0
  checkMemory := .errorCheck 0
  readPlayPointer := .nothing
  readRecordPointer := .nothing
  readDeviceId := .nothing
  readApc := .nothing
  writeApc := .nothing
  setField := Vector.replicate 10 .nothing
  getField := Vector.replicate 10 .nothing
  setVolumeControl := .nothing
  writeNvConfig := .nothing
  loadNvConfig := .nothing
  toggleExtClock := .nothing
  setPlayRange := .settle 500
  setRecordRange := .settle 500
  setEraseRange := .settle 500
  play := .settle 500
  record := .settle 500
  erase := .settle 500
  globalErase := .settle 500

/-- The defaults of R5, with the ten device ids `ids`, which have no default (D21). -/
def Params.withIds (ids : Vector Byte 10) : Params where
  lCmd := 2
  lRd3 := 3
  lRd4 := 4
  lRng := 7
  pad := 0x00#8
  s1Ready := 2
  s1Eom := 3
  s1Int := 4
  s2Rdy := 0
  s2Erase := 1
  s2Play := 2
  s2Rec := 3
  s2SeLo := 4
  s2SeW := 4
  apcOff := ApcOffsets.default
  deviceId := ids
  tw := 32
  postCheck := PostChecks.printed
  errCode := #v[0, 1, 2, 3, 4, 5, 6, 7, 8]

/-- The instance that `State.reset` shows: R5's defaults, and an open id for each variant. -/
def Params.default : Params := Params.withIds (Vector.ofFn Config.deviceId)

/-- `L_WR3`, exactly 3 (R5). -/
def lWr3 : Nat := 3

/-- The mask of a span of `width` bits at `lo`, in `n` bits. -/
def spanMask (n lo width : Nat) : BitVec n := ((1#n <<< width) - 1#n) <<< lo

/-- The ten spans of the APC word (R163): offset and width. -/
def ApcOffsets.spans (o : ApcOffsets) : List (Nat × Nat) :=
  [(o.volume, 3), (o.monitorInput, 1), (o.mixInput, 1), (o.seEditing, 1), (o.spiFt, 1),
   (o.analogOutput, 1), (o.pwmSpeaker, 1), (o.puAnalogOutput, 1), (o.voltageAlert, 1), (o.eomStop, 1)]

/-- Two spans share no bit. -/
def spansDisjoint (a b : Nat × Nat) : Bool := a.1 + a.2 ≤ b.1 || b.1 + b.2 ≤ a.1

/-- Every two spans of a list, at different places of it, share no bit. -/
def pairwiseDisjoint : List (Nat × Nat) → Bool
  | [] => true
  | a :: rest => rest.all (spansDisjoint a) && pairwiseDisjoint rest

/-- The constraints of R5 on a frame length: a frame holds the bytes its format names, and fits the seven
bytes of the frame buffers (R33). -/
def Params.lengthsValid (p : Params) : Bool :=
  decide (1 ≤ p.lCmd ∧ p.lCmd ≤ 7) && decide (3 ≤ p.lRd3 ∧ p.lRd3 ≤ 7)
    && decide (4 ≤ p.lRd4 ∧ p.lRd4 ≤ 7) && decide (5 ≤ p.lRng ∧ p.lRng ≤ 7)

/-- The constraints of R5 (D7) on the STATUS1 indices: pairwise distinct, and none is the command-error
bit 0. -/
def Params.status1Valid (p : Params) : Bool :=
  decide (p.s1Ready ≠ p.s1Eom ∧ p.s1Ready ≠ p.s1Int ∧ p.s1Eom ≠ p.s1Int
    ∧ p.s1Ready ≠ 0 ∧ p.s1Eom ≠ 0 ∧ p.s1Int ≠ 0)

/-- The constraints of R5 (D7) on the STATUS2 spans: pairwise disjoint, inside bits 7:0. -/
def Params.status2Valid (p : Params) : Bool :=
  decide (p.s2SeLo.val + p.s2SeW ≤ 8)
    && pairwiseDisjoint [(p.s2Rdy.val, 1), (p.s2Erase.val, 1), (p.s2Play.val, 1), (p.s2Rec.val, 1),
        (p.s2SeLo.val, p.s2SeW)]

/-- The constraint of R163: the ten spans are pairwise disjoint and lie inside bits 11:0. -/
def Params.apcValid (p : Params) : Bool :=
  p.apcOff.spans.all (fun x => decide (x.1 + x.2 ≤ 12)) && pairwiseDisjoint p.apcOff.spans

/-- What the `TW` bits of a timeout or delay operand, or of the timeout counter, carry. `TW` is a parameter (R5,
decision D16), so a time is a number and its width stands here (assumption 21). -/
def Params.ms (p : Params) (n : Nat) : Nat := n % 2 ^ p.tw

/-- A post-check's times are numbers of `TW` bits. -/
def PostCheck.fits (tw : Nat) : PostCheck → Bool
  | .nothing => true
  | .settle ms => decide (ms < 2 ^ tw)
  | .errorCheck wait => decide (wait < 2 ^ tw)
  | .poll _ timeout wait => decide (timeout < 2 ^ tw ∧ wait < 2 ^ tw)

/-- The entries of a post-check table. -/
def PostChecks.entries (c : PostChecks) : List PostCheck :=
  [c.powerUp, c.powerDown, c.stop, c.reset, c.clearInterrupt, c.next, c.checkMemory, c.readPlayPointer,
    c.readRecordPointer, c.readDeviceId, c.readApc, c.writeApc] ++ c.setField.toList ++ c.getField.toList
    ++ [c.setVolumeControl, c.writeNvConfig, c.loadNvConfig, c.toggleExtClock, c.setPlayRange,
      c.setRecordRange, c.setEraseRange, c.play, c.record, c.erase, c.globalErase]

/-- The constraints of R5 on `TW`, at least 10, and on the delays and timeouts of `POSTCHECK`, `TW`-bit numbers
(R9, R145). -/
def Params.timesValid (p : Params) : Bool :=
  decide (10 ≤ p.tw) && p.postCheck.entries.all (PostCheck.fits p.tw)

/-- The constraint of R5 on `ERRCODE`: the nine codes are pairwise distinct. -/
def Params.errCodesValid (p : Params) : Bool := decide p.errCode.toList.Nodup

/-- Every constraint that R5 puts on an instantiation of the parameters. -/
def Params.valid (p : Params) : Bool :=
  p.lengthsValid && p.status1Valid && p.status2Valid && p.apcValid && p.timesValid && p.errCodesValid

end Sys2Proof
end

