-- ==== Sys2Proof/Syntax.lean ====
section
/-! DEFINITION. The instructions of the wire encoding: one constructor per row of spec/opcode_table.json,
with the operands that the row's frame carries (30_encoding.md R90, R94, R95). -/

namespace Sys2Proof

/-- The 24 commands of the engine (R90). -/
inductive Instr where
  /-- PU, power-up, 0x01. -/
  | pu
  /-- STOP, 0x02. -/
  | stop
  /-- RESET, the chip's reset command, 0x03. -/
  | reset
  /-- CLR_INT, clear-interrupt, 0x04. -/
  | clrInt
  /-- RD_STATUS, 0x05. -/
  | rdStatus
  /-- RD_PLAY_PTR, 0x06. -/
  | rdPlayPtr
  /-- PD, power-down, 0x07. -/
  | pd
  /-- RD_REC_PTR, 0x08. -/
  | rdRecPtr
  /-- RD_DEVID, 0x09. -/
  | rdDevid
  /-- PLAY, 0x40. -/
  | play
  /-- REC, record, 0x41. -/
  | record
  /-- ERASE, 0x42. -/
  | erase
  /-- G_ERASE, global-erase, 0x43. -/
  | gErase
  /-- RD_APC, 0x44. -/
  | rdApc
  /-- WR_APC_BTN, write-APC(button), 0x45. -/
  | wrApcBtn (w : Word12)
  /-- WR_APC_REG, write-APC(register), 0x65. -/
  | wrApcReg (w : Word12)
  /-- WR_NVCFG, 0x46. -/
  | wrNvcfg
  /-- LD_NVCFG, 0x47. -/
  | ldNvcfg
  /-- FWD, forward/next, 0x48. -/
  | fwd
  /-- CHK_MEM, 0x49. -/
  | chkMem
  /-- EXTCLK, toggle-external-clock, 0x4A. -/
  | extclk
  /-- SET_PLAY, set-play-range, 0x80. -/
  | setPlay (start last : Addr)
  /-- SET_REC, set-record-range, 0x81. -/
  | setRec (start last : Addr)
  /-- SET_ERASE, set-erase-range, 0x82. -/
  | setErase (start last : Addr)
  deriving DecidableEq, Repr

end Sys2Proof
end

