-- ==== Sys2Proof/WellFormed.lean ====
section
/-! DEFINITION. Which instructions a frame can carry: a range operand is checked at 16 bits and sent at
11 (30_encoding.md R87, R95), so only addresses below 0x800 survive their encoding. -/

namespace Sys2Proof

/-- An address that the 11 bits of a range frame carry whole (R87). -/
def fits11 (a : Addr) : Bool := a < 0x800#16

/-- `i` has a frame that carries its operands whole. -/
def Instr.wellFormed : Instr → Bool
  | .setPlay start last  => fits11 start && fits11 last
  | .setRec start last   => fits11 start && fits11 last
  | .setErase start last => fits11 start && fits11 last
  | .pu | .stop | .reset | .clrInt | .rdStatus | .rdPlayPtr | .pd | .rdRecPtr | .rdDevid
  | .play | .record | .erase | .gErase | .rdApc | .wrApcBtn _ | .wrApcReg _ | .wrNvcfg | .ldNvcfg
  | .fwd | .chkMem | .extclk => true

end Sys2Proof
end

