-- ==== Sys2Proof/Decode.lean ====
section
/-! DEFINITION. The frame decoder, total on any bytes (30_encoding.md R92), and the frame encoder (R80 to R88),
on logical bytes, byte 0 first. The decoder reads the frames of spec/opcode_table.json, at their default lengths. -/

namespace Sys2Proof

/-- Why a list of bytes is no frame of the engine. -/
inductive FrameReject where
  /-- There is no byte 0. -/
  | empty
  /-- Byte 0 is none of the 24 opcodes: "not a command of this engine" (R92). -/
  | notACommand (opcode : Byte)
  /-- Fewer bytes than the opcode's format fixes (R71, R93). -/
  | tooShort (opcode : Byte)
  /-- Bytes are left after the frame (R71). -/
  | tooLong (opcode : Byte)
  /-- A padding byte, or a fixed zero bit of a payload byte, is not as the row's pattern has it (R88, R94). -/
  | badPadding (opcode : Byte)
  deriving DecidableEq, Repr

/-- The five frame formats (R80). -/
inductive FrameFormat where
  | fCmd | fRd3 | fRd4 | fWr3 | fRng
  deriving DecidableEq, Repr

/-- The format of each opcode (R90); `none` for the 232 other bytes (R92). -/
def formatOf (op : Byte) : Option FrameFormat :=
  match op.toNat with
  | 0x01 | 0x02 | 0x03 | 0x04 | 0x07 => some .fCmd
  | 0x40 | 0x41 | 0x42 | 0x43 => some .fCmd
  | 0x46 | 0x47 | 0x48 | 0x49 | 0x4A => some .fCmd
  | 0x05 | 0x09 => some .fRd3
  | 0x06 | 0x08 | 0x44 => some .fRd4
  | 0x45 | 0x65 => some .fWr3
  | 0x80 | 0x81 | 0x82 => some .fRng
  | _ => none

/-- The length of a frame is a function of its format (R80, R93). -/
def FrameFormat.length (p : Params) : FrameFormat → Nat
  | .fCmd => p.lCmd
  | .fRd3 => p.lRd3
  | .fRd4 => p.lRd4
  | .fWr3 => lWr3
  | .fRng => p.lRng

/-- The lengths of spec/opcode_table.json (R94). -/
def FrameFormat.tableLength : FrameFormat → Nat
  | .fCmd => 2
  | .fRd3 => 3
  | .fRd4 => 4
  | .fWr3 => 3
  | .fRng => 7

/-- The instruction of an opcode whose frame carries no operand (R90). -/
def plainOf (op : Byte) : Option Instr :=
  match op.toNat with
  | 0x01 => some .pu
  | 0x02 => some .stop
  | 0x03 => some .reset
  | 0x04 => some .clrInt
  | 0x05 => some .rdStatus
  | 0x06 => some .rdPlayPtr
  | 0x07 => some .pd
  | 0x08 => some .rdRecPtr
  | 0x09 => some .rdDevid
  | 0x40 => some .play
  | 0x41 => some .record
  | 0x42 => some .erase
  | 0x43 => some .gErase
  | 0x44 => some .rdApc
  | 0x46 => some .wrNvcfg
  | 0x47 => some .ldNvcfg
  | 0x48 => some .fwd
  | 0x49 => some .chkMem
  | 0x4A => some .extclk
  | _ => none

/-- The instruction of an F-WR3 opcode (R86). -/
def writeOf (op : Byte) (w : Word12) : Option Instr :=
  match op.toNat with
  | 0x45 => some (.wrApcBtn w)
  | 0x65 => some (.wrApcReg w)
  | _ => none

/-- The instruction of an F-RNG opcode (R87). -/
def rangeOf (op : Byte) (start last : Addr) : Option Instr :=
  match op.toNat with
  | 0x80 => some (.setPlay start last)
  | 0x81 => some (.setRec start last)
  | 0x82 => some (.setErase start last)
  | _ => none

/-- Two bytes, the lower first, as one 16-bit value (R68). -/
def joinBytes (lo hi : Byte) : BitVec 16 := (hi.setWidth 16 <<< 8) ||| lo.setWidth 16

/-- The operands of one whole frame of the table's length, each fixed bit checked (R94). -/
def decodeBody (op : Byte) (body : List Byte) : Except FrameReject Instr :=
  match formatOf op, body with
  | some .fCmd, [p1] =>
      if p1 = 0 then (plainOf op).elim (.error (.notACommand op)) .ok else .error (.badPadding op)
  | some .fRd3, [p1, p2] =>
      if p1 = 0 ∧ p2 = 0 then (plainOf op).elim (.error (.notACommand op)) .ok
      else .error (.badPadding op)
  | some .fRd4, [p1, p2, p3] =>
      if p1 = 0 ∧ p2 = 0 ∧ p3 = 0 then (plainOf op).elim (.error (.notACommand op)) .ok
      else .error (.badPadding op)
  | some .fWr3, [lo, hi] =>
      if hi &&& 0xF0#8 = 0 then
        (writeOf op ((joinBytes lo hi).setWidth 12)).elim (.error (.notACommand op)) .ok
      else .error (.badPadding op)
  | some .fRng, [p1, sLo, sHi, eLo, eHi, p6] =>
      if p1 = 0 ∧ p6 = 0 ∧ sHi &&& 0xF8#8 = 0 ∧ eHi &&& 0xF8#8 = 0 then
        (rangeOf op (joinBytes sLo sHi) (joinBytes eLo eHi)).elim (.error (.notACommand op)) .ok
      else .error (.badPadding op)
  | none, _ => .error (.notACommand op)
  | some _, _ => .error (.tooShort op)

/-- Reads one frame from the front of a list of logical bytes: the instruction and the bytes left. The length
comes from the opcode alone (R93). -/
def decodePrefix : List Byte → Except FrameReject (Instr × List Byte)
  | [] => .error .empty
  | op :: rest =>
      match formatOf op with
      | none => .error (.notACommand op)
      | some f =>
          match decodeBody op (rest.take (f.tableLength - 1)) with
          | .ok i => .ok (i, rest.drop (f.tableLength - 1))
          | .error e => .error e

/-- Decodes one whole frame: a frame is never shorter or longer than its format fixes (R71). -/
def decode (bytes : List Byte) : Except FrameReject Instr :=
  match decodePrefix bytes with
  | .ok (i, []) => .ok i
  | .ok (_, _ :: _) => .error (.tooLong (bytes.headD 0))
  | .error e => .error e

/-- The bytes of a word as spec/opcode_table.json numbers its bits: byte 0 is bits 7..0, up to the longest
frame, the bits from `nbits` on zero. -/
def tableBytes (nbits w : Nat) : List Byte :=
  (List.range 7).map fun k => BitVec.ofNat 8 ((w % 2 ^ nbits) / 2 ^ (8 * k))

/-- The instruction that the decoder reads from a table word. -/
def decodeTableWord (nbits w : Nat) : Option Instr :=
  match decodePrefix (tableBytes nbits w) with
  | .ok (i, _) => some i
  | .error _ => none

/-- The opcode of each instruction, the wire-exact catalogue of R90. -/
def opcodeOf : Instr → Byte
  | .pu => 0x01
  | .stop => 0x02
  | .reset => 0x03
  | .clrInt => 0x04
  | .rdStatus => 0x05
  | .rdPlayPtr => 0x06
  | .pd => 0x07
  | .rdRecPtr => 0x08
  | .rdDevid => 0x09
  | .play => 0x40
  | .record => 0x41
  | .erase => 0x42
  | .gErase => 0x43
  | .rdApc => 0x44
  | .wrApcBtn _ => 0x45
  | .wrApcReg _ => 0x65
  | .wrNvcfg => 0x46
  | .ldNvcfg => 0x47
  | .fwd => 0x48
  | .chkMem => 0x49
  | .extclk => 0x4A
  | .setPlay _ _ => 0x80
  | .setRec _ _ => 0x81
  | .setErase _ _ => 0x82

/-- The payload bytes of an APC write: `w[7:0]`, `(w >> 8) & 0x0F` (R86). -/
def wordPayload (w : Word12) : List Byte :=
  [w.setWidth 8, (w >>> 8).setWidth 8 &&& 0x0F#8]

/-- The payload bytes of one address: `a[7:0]`, `(a >> 8) & 0x07` (R87). -/
def addrPayload (a : Addr) : List Byte :=
  [a.setWidth 8, (a >>> 8).setWidth 8 &&& 0x07#8]

/-- A list of bytes filled with `PAD` up to `n` bytes (R88). -/
def padTo (p : Params) (n : Nat) (bytes : List Byte) : List Byte :=
  bytes ++ List.replicate (n - bytes.length) p.pad

/-- The padding byte between a range frame's opcode and its payload (R87). A frame of 5 bytes, the least that R5
allows, is the opcode and the four payload bytes, and has none: DESIGN CHOICE (assumption 16). -/
def rangePad (p : Params) : List Byte := if p.lRng = 5 then [] else [p.pad]

/-- A range frame (R87). -/
def rangeFrame (p : Params) (op : Byte) (start last : Addr) : List Byte :=
  padTo p p.lRng (op :: rangePad p ++ addrPayload start ++ addrPayload last)

/-- The logical frame of an instruction under the parameters `p` (R80 to R88). -/
def encodeWith (p : Params) : Instr → List Byte
  | .pu => padTo p p.lCmd [0x01]
  | .stop => padTo p p.lCmd [0x02]
  | .reset => padTo p p.lCmd [0x03]
  | .clrInt => padTo p p.lCmd [0x04]
  | .rdStatus => padTo p p.lRd3 [0x05]
  | .rdPlayPtr => padTo p p.lRd4 [0x06]
  | .pd => padTo p p.lCmd [0x07]
  | .rdRecPtr => padTo p p.lRd4 [0x08]
  | .rdDevid => padTo p p.lRd3 [0x09]
  | .play => padTo p p.lCmd [0x40]
  | .record => padTo p p.lCmd [0x41]
  | .erase => padTo p p.lCmd [0x42]
  | .gErase => padTo p p.lCmd [0x43]
  | .rdApc => padTo p p.lRd4 [0x44]
  | .wrApcBtn w => 0x45 :: wordPayload w
  | .wrApcReg w => 0x65 :: wordPayload w
  | .wrNvcfg => padTo p p.lCmd [0x46]
  | .ldNvcfg => padTo p p.lCmd [0x47]
  | .fwd => padTo p p.lCmd [0x48]
  | .chkMem => padTo p p.lCmd [0x49]
  | .extclk => padTo p p.lCmd [0x4A]
  | .setPlay start last => rangeFrame p 0x80 start last
  | .setRec start last => rangeFrame p 0x81 start last
  | .setErase start last => rangeFrame p 0x82 start last

/-- The frame of spec/opcode_table.json for an instruction: the encoding at the default parameters. -/
def encode (i : Instr) : List Byte := encodeWith Params.default i

end Sys2Proof
end

