-- ==== Sys2Proof/Machine/HostOp.lean ====
section
/-! DEFINITION. The names on the host port: the ten variants, the two volume-control sources, the ten APC
fields, the result codes, and the 53 operations of 30_encoding.md R100 as a closed enumeration (R101,
decision D19; the binary selector encoding `OPSEL` is open and has no field). -/

namespace Sys2Proof.Machine

/-- The ten chip variants (R1, R20). -/
inductive Variant where
  | isd1730 | isd1740 | isd1750 | isd1760 | isd1790
  | isd17120 | isd17150 | isd17180 | isd17210 | isd17240
  deriving DecidableEq, Repr

/-- The volume-control source, `VOL_SRC` (R22): 0 is button, 1 is register. -/
inductive VolSrc where
  | button | register
  deriving DecidableEq, Repr

/-- The ten bit fields of the APC word (R163). -/
inductive ApcField where
  | volume | monitorInput | mixInput | seEditing | spiFt
  | analogOutput | pwmSpeaker | puAnalogOutput | voltageAlert | eomStop
  deriving DecidableEq, Repr

/-- The nine result codes (R271). -/
inductive ErrCode where
  | ok | invalidArgument | notInitialized | communicationFailure | chipReportedError | timeout
  | identityMismatch | unknownVariant | missingBinding
  deriving DecidableEq, Repr

/-- The six states of the sequencer (R30). -/
inductive SeqState where
  | idle | commandIssued | polling | completed | timedOut | commandError
  deriving DecidableEq, Repr

/-- The kinds of notification of the event sink (R9). -/
inductive EventKind where
  | eom | int
  deriving DecidableEq, Repr

/-- The event alphabet of the trace (R10). Byte lists are wire bytes. -/
inductive Event where
  | xfer (wtx wrx : List Byte)
  | xferFail (wtx : List Byte)
  | delay (ms : Nat)
  | event (kind : EventKind)
  | phyInit (ok : Bool)
  | phyDeinit (ok : Bool)
  | gpioInit (ok : Bool)
  | gpioDeinit (ok : Bool)
  | gpioWrite (level ok : Bool)
  deriving DecidableEq, Repr

/-- The host operations, the engine's complete instruction set (R100). -/
inductive HostOp where
  | setType (v : VariantCode)
  | getType
  | init
  | deinit
  | getIntDone
  | clrIntDone
  | powerUp
  | powerDown
  | stop
  | reset
  | clearInterrupt
  | next
  | checkMemory
  | readPlayPointer
  | readRecordPointer
  | readDeviceId
  | writeNvConfig
  | loadNvConfig
  | toggleExtClock
  | getStatus
  | pollWait (mask : Byte) (timeout settle : Nat)
  | irqHandler
  | readApc
  | writeApc (w : Word12)
  | setVolume (level : Byte)
  | getVolume
  | setMonitorInput (b : Bool)
  | getMonitorInput
  | setMixInput (b : Bool)
  | getMixInput
  | setSeEditing (b : Bool)
  | getSeEditing
  | setSpiFt (b : Bool)
  | getSpiFt
  | setAnalogOutput (route : BitVec 1)
  | getAnalogOutput
  | setPwmSpeaker (b : Bool)
  | getPwmSpeaker
  | setPuAnalogOutput (b : Bool)
  | getPuAnalogOutput
  | setVoltageAlert (b : Bool)
  | getVoltageAlert
  | setEomStop (b : Bool)
  | getEomStop
  | setVolumeControl (src : VolSrc)
  | getVolumeControl
  | setPlayRange (start last : Addr)
  | setRecordRange (start last : Addr)
  | setEraseRange (start last : Addr)
  | play
  | record
  | erase
  | globalErase
  deriving DecidableEq, Repr

/-- What can reach the engine from outside, between operations. -/
inductive Input where
  /-- A row of the opcode table, presented as its logical frame (DESIGN CHOICE: `OPSEL` is open). -/
  | frame (bytes : List Byte)
  /-- A host operation (R7, R100). -/
  | op (o : HostOp)
  /-- The straps `BINDINGS_OK` and `EVENT_CB_PRESENT` change (R9; constant while an operation runs, R25). -/
  | straps (bindingsOk eventCbPresent : Bool)
  /-- The engine's own reset (R310). -/
  | engineReset
  deriving DecidableEq, Repr

/-- The answer of a port to one call: its success bit and, for an exchange, the received wire bytes, of which
a frame of `n` bytes takes the first `n` (R8, R9). -/
structure Answer where
  ok : Bool
  rx : FrameBuffer
  deriving DecidableEq, Repr

end Sys2Proof.Machine
end

