-- ==== Sys2Proof/Machine/State.lean ====
section
/-! DEFINITION. The state of the engine: every register of 10_state.md, the straps and parameters the step
reads, the outside world's pending events and answers as plain data, and the trace. -/

namespace Sys2Proof.Machine

structure State where
  /-- `CHIP_VARIANT` (R20). -/
  chipVariant    : VariantCode
  /-- `END_ADDRESS` (R21). -/
  endAddress     : Addr
  /-- `VOL_SRC` (R22). -/
  volSrc         : VolSrc
  /-- `INITIALIZED` (R23). -/
  initialized    : Bool
  /-- `INTERRUPT_DONE` (R24). -/
  interruptDone  : Bool
  /-- `STATUS1` (R26). -/
  status1        : BitVec 16
  /-- `STATUS2` (R27). -/
  status2        : Byte
  /-- `SEQ` (R30). -/
  seq            : SeqState
  /-- `TIMEOUT_CNT`, a number of `TW` bits (R31, assumption 21). -/
  timeoutCnt     : Nat
  /-- `APC_TMP` (R32). -/
  apcTmp         : Word12
  /-- `TXBUF[0..6]` (R33). -/
  txbuf          : FrameBuffer
  /-- `RXBUF[0..6]` (R33). -/
  rxbuf          : FrameBuffer
  /-- `FLEN` (R33). -/
  flen           : BitVec 3
  /-- `RESULT` (R34). -/
  result         : ErrCode
  /-- `RDATA` (R34). -/
  rdata          : Data
  /-- The strap `BINDINGS_OK` (R9, R25). -/
  bindingsOk     : Bool
  /-- The strap `EVENT_CB_PRESENT` (R9, R25). -/
  eventCbPresent : Bool
  /-- The parameters of this instance (R5). No step writes them. -/
  params         : Params
  /-- What the outside world presents next, in order (R7). -/
  inputs         : List Input
  /-- The answers of the ports to the next calls, in order; past the list an answer is a free value (93 U2). -/
  answers        : List Answer
  /-- `some n`: the port call after `n` more never returns (93 U9); `none`: every port call returns (R326). -/
  hang           : Option Nat
  /-- The trace of port events (R10). -/
  trace          : List Event
  /-- The MODEL's own: how many free values were drawn. -/
  draws          : Nat
  /-- The MODEL's own: every value `SEQ` has taken since reset, in order (R290). -/
  seqLog         : List SeqState
  deriving DecidableEq, Repr

/-- Why the machine stops. -/
inductive Fault where
  /-- A port primitive that never returns (93 U9, "stuck"): raised by any operation whose port call hangs. Safe:
  the spec defines no further step. -/
  | portNeverReturns
  deriving DecidableEq, Repr

/-- Why the machine gives a request no meaning. -/
inductive Refusal where
  /-- An instruction whose arm of `exec` has no meaning; no arm raises it. Safe. -/
  | notModelled (mnemonic : String)
  /-- A request while the engine is busy (93 U1, "refuse"): raised by every operation when `SEQ` is not
  `Idle`. Safe. -/
  | requestWhileBusy
  /-- INIT while `INITIALIZED` is 1 (93 U3, "refuse"; R257): raised by the host operation INIT. Safe. -/
  | initWhileInitialized
  /-- A step from the middle of an operation (`SEQ` in `CommandIssued` or `Polling`), which no run reaches:
  raised by `step`. Safe. -/
  | operationInProgress
  deriving DecidableEq, Repr

/-- The machine after engine reset (R311). Registers without a reset value (the status latches, `APC_TMP`,
the frame buffers, `RDATA`) are zero: DESIGN CHOICE, unsafe (assumption 6). -/
def State.reset : State where
  chipVariant := 0
  endAddress := 0
  volSrc := .button
  initialized := false
  interruptDone := false
  status1 := 0
  status2 := 0
  seq := .idle
  timeoutCnt := 0
  apcTmp := 0
  txbuf := Vector.replicate 7 0
  rxbuf := Vector.replicate 7 0
  flen := 0
  result := .ok
  rdata := 0
  bindingsOk := true
  eventCbPresent := false
  params := Params.default
  inputs := []
  answers := []
  hang := none
  trace := []
  draws := 0
  seqLog := [.idle]

end Sys2Proof.Machine
end

