-- ==== Sys2Proof/Machine/Flags.lean ====
section
/-! DEFINITION. The flags of the engine: combinational functions of the status latches (10_state.md R28,
41_status_polling.md R140), the mask forms of the STATUS2 flags, and `BUSY`. -/

namespace Sys2Proof.Machine

/-- `cmd_err = STATUS1[0]` (R28), the one bit position the source fixes. -/
def State.cmdErr (s : State) : Bool := s.status1.getLsbD 0

/-- `eom = STATUS1[S1_EOM]` (R28). -/
def State.eom (s : State) : Bool := s.status1.getLsbD s.params.s1Eom

/-- `int = STATUS1[S1_INT]` (R28). -/
def State.int (s : State) : Bool := s.status1.getLsbD s.params.s1Int

/-- `ready1 = STATUS1[S1_READY]` (R28); no rule reads it. -/
def State.ready1 (s : State) : Bool := s.status1.getLsbD s.params.s1Ready

/-- `irq_pending = eom | int` (R28). -/
def State.irqPending (s : State) : Bool := s.eom || s.int

/-- The bit index of a STATUS2 flag (R27). -/
def s2Index (p : Params) : S2Flag → Nat
  | .rdy => p.s2Rdy
  | .erase => p.s2Erase
  | .play => p.s2Play
  | .record => p.s2Rec

/-- The mask form of a STATUS2 flag: `M_RDY`, `M_ERASE`, `M_PLAY`, `M_REC` (R28). -/
def s2Mask (p : Params) (f : S2Flag) : Byte := 1#8 <<< s2Index p f

/-- The eight bits of a polling post-check's mask (R200). -/
def pollByte (p : Params) : PollMask → Byte
  | .flag f => s2Mask p f
  | .bits m => m

/-- A flag of the STATUS2 latch: 1 while the named operation is in progress (R27). -/
def State.s2Flag (s : State) (f : S2Flag) : Bool := s.status2.getLsbD (s2Index s.params f)

/-- The sound-effect flags, the span `S2_SE` of STATUS2 (R27); no rule reads them (N22). -/
def State.seFlags (s : State) : Byte :=
  (s.status2 >>> s.params.s2SeLo.val) &&& spanMask 8 0 s.params.s2SeW

/-- `BUSY = (SEQ != Idle)` (R30). -/
def State.busy (s : State) : Bool := s.seq != .idle

end Sys2Proof.Machine
end

