-- ==== Sys2Proof/Machine/Operands.lean ====
section
/-! DEFINITION. The operand and result forms: variant codes and the end-address ROM, the decoders of the
receive buffer, the timeout load, the APC field table with its insert and extract, and the codes of the
enumerations. -/

namespace Sys2Proof.Machine

/-- The binary code of each variant (R20, decision D20). -/
def Variant.code : Variant → VariantCode
  | .isd1730 => 0
  | .isd1740 => 1
  | .isd1750 => 2
  | .isd1760 => 3
  | .isd1790 => 4
  | .isd17120 => 5
  | .isd17150 => 6
  | .isd17180 => 7
  | .isd17210 => 8
  | .isd17240 => 9

/-- The variant of a code; 10 to 15 are no variants (R20). -/
def variantOfCode (c : VariantCode) : Option Variant :=
  match c.toNat with
  | 0 => some .isd1730
  | 1 => some .isd1740
  | 2 => some .isd1750
  | 3 => some .isd1760
  | 4 => some .isd1790
  | 5 => some .isd17120
  | 6 => some .isd17150
  | 7 => some .isd17180
  | 8 => some .isd17210
  | 9 => some .isd17240
  | _ => none

/-- `END_ADDR[v]`, the ten-entry constant ROM (R66). -/
def endAddrOf : Variant → Addr
  | .isd1730 => 0x0FF
  | .isd1740 => 0x14F
  | .isd1750 => 0x19F
  | .isd1760 => 0x1EF
  | .isd1790 => 0x2DF
  | .isd17120 => 0x3CF
  | .isd17150 => 0x4BF
  | .isd17180 => 0x5AF
  | .isd17210 => 0x69F
  | .isd17240 => 0x78F

/-- `DEVICE_ID[v]` (R5, decision D21). -/
def deviceIdOf (p : Params) : Variant → Byte
  | .isd1730 => p.deviceId[0]
  | .isd1740 => p.deviceId[1]
  | .isd1750 => p.deviceId[2]
  | .isd1760 => p.deviceId[3]
  | .isd1790 => p.deviceId[4]
  | .isd17120 => p.deviceId[5]
  | .isd17150 => p.deviceId[6]
  | .isd17180 => p.deviceId[7]
  | .isd17210 => p.deviceId[8]
  | .isd17240 => p.deviceId[9]

/-- The code of a volume-control source on the host port (R22). -/
def VolSrc.code : VolSrc → BitVec 1
  | .button => 0
  | .register => 1

/-- The place of a result code in the table of R271. -/
def ErrCode.index : ErrCode → Fin 9
  | .ok => 0
  | .invalidArgument => 1
  | .notInitialized => 2
  | .communicationFailure => 3
  | .chipReportedError => 4
  | .timeout => 5
  | .identityMismatch => 6
  | .unknownVariant => 7
  | .missingBinding => 8

/-- `ERRCODE[e]`, the number of a result code on a binary host port (R5, R271, decision D17). -/
def ErrCode.number (p : Params) (e : ErrCode) : BitVec 4 := p.errCode[e.index]

/-- The code of a sequencer state in the 3 bits of `SEQ`. R30 gives the width and the six states and no code:
the codes 0 to 5, in the order R30 names the states, are the model's. DESIGN CHOICE, unsafe (assumption 27); no
meaning and no statement reads them. -/
def SeqState.code : SeqState → BitVec 3
  | .idle => 0
  | .commandIssued => 1
  | .polling => 2
  | .completed => 3
  | .timedOut => 4
  | .commandError => 5

/-- A bool operand or result as data. -/
def boolData (b : Bool) : Data := if b then 1 else 0

/-- `STATUS1 = (RXBUF[1], RXBUF[0])`, the high byte first (R82, R140). -/
def rxStatus1 (b : FrameBuffer) : BitVec 16 := b[1] ++ b[0]

/-- `STATUS2 = RXBUF[2]` (R82, R140). -/
def rxStatus2 (b : FrameBuffer) : Byte := b[2]

/-- `id = (RXBUF[2] >> 3) & 0xFF` (R83, conflict C1: the formula governs). -/
def rxDeviceId (b : FrameBuffer) : Byte := (b[2] >>> 3) &&& 0xFF#8

/-- `ptr = ((RXBUF[3] & 0x7) << 8) | RXBUF[2]`, 11 bits (R84). -/
def rxPointer (b : FrameBuffer) : BitVec 11 :=
  ((b[3] &&& 0x07#8).setWidth 11 <<< 8) ||| b[2].setWidth 11

/-- `w = ((RXBUF[3] & 0x0F) << 8) | RXBUF[2]`, 12 bits (R85). -/
def rxApc (b : FrameBuffer) : Word12 :=
  ((b[3] &&& 0x0F#8).setWidth 12 <<< 8) ||| b[2].setWidth 12

/-- `timeout_ms / 10`, unsigned, rounding toward zero (R144). -/
def timeoutLoad (timeout : Nat) : Nat := timeout / 10

/-- `start < end <= bound` on the full 16-bit operands (R64, R230). -/
def rangeLegal (start last bound : Addr) : Bool := start < last && last ≤ bound

/-- The place of a field in a table with one entry for each field, in the order of R163. -/
def ApcField.index : ApcField → Fin 10
  | .volume => 0
  | .monitorInput => 1
  | .mixInput => 2
  | .seEditing => 3
  | .spiFt => 4
  | .analogOutput => 5
  | .pwmSpeaker => 6
  | .puAnalogOutput => 7
  | .voltageAlert => 8
  | .eomStop => 9

/-- `APC_W[f]` (R163). -/
def ApcField.width : ApcField → Nat
  | .volume => 3
  | .monitorInput | .mixInput | .seEditing | .spiFt | .analogOutput
  | .pwmSpeaker | .puAnalogOutput | .voltageAlert | .eomStop => 1

/-- `APC_INV[f]`: the five fields of inverted polarity (R163). -/
def ApcField.inverted : ApcField → Bool
  | .seEditing | .spiFt | .pwmSpeaker | .puAnalogOutput | .voltageAlert => true
  | .volume | .monitorInput | .mixInput | .analogOutput | .eomStop => false

/-- `APC_OFF[f]` (R163). -/
def ApcField.offset (p : Params) : ApcField → Nat
  | .volume => p.apcOff.volume
  | .monitorInput => p.apcOff.monitorInput
  | .mixInput => p.apcOff.mixInput
  | .seEditing => p.apcOff.seEditing
  | .spiFt => p.apcOff.spiFt
  | .analogOutput => p.apcOff.analogOutput
  | .pwmSpeaker => p.apcOff.pwmSpeaker
  | .puAnalogOutput => p.apcOff.puAnalogOutput
  | .voltageAlert => p.apcOff.voltageAlert
  | .eomStop => p.apcOff.eomStop

/-- `(1 << W) - 1`, the ones of a field before its shift (R164). -/
def ApcField.ones (f : ApcField) : Word12 := (1#12 <<< f.width) - 1#12

/-- `m = ((1 << W) - 1) << O`, the mask of the span (R164). -/
def ApcField.mask (p : Params) (f : ApcField) : Word12 := f.ones <<< f.offset p

/-- The field's value as the wire carries it, or back: complement within its width where `APC_INV[f]`
(R164, R165). -/
def ApcField.polarity (f : ApcField) (v : Word12) : Word12 :=
  if f.inverted then v ^^^ f.ones else v

/-- The modify step of the generic setter: `(w & ~m) | ((x << O) & m)` (R164). -/
def apcInsert (p : Params) (f : ApcField) (v w : Word12) : Word12 :=
  (w &&& ~~~(f.mask p)) ||| ((f.polarity v <<< f.offset p) &&& f.mask p)

/-- The extract step of the generic getter (R165). -/
def apcExtract (p : Params) (f : ApcField) (w : Word12) : Word12 :=
  f.polarity ((w >>> f.offset p) &&& f.ones)

/-- A one-bit operand as a field value. -/
def boolField (b : Bool) : Word12 := if b then 1 else 0

end Sys2Proof.Machine
end

