-- ==== Sys2Proof/Machine/Ops.lean ====
section
/-! DEFINITION. The named operations every meaning is built from: port calls and the trace, the transceiver
(40_transceiver.md), the status read and the completion check (41_status_polling.md), the APC primitives
(42_apc_accessors.md), and raising a result code and ending an operation (60_exceptions.md R275, R276). -/

namespace Sys2Proof.Machine

/-- What a part of an operation's pseudocode comes to: it goes on, it raises a result code, or a port call
never returns (93 U9). State written before stays written (R274). -/
inductive Res where
  | ok (s : State)
  | err (e : ErrCode) (s : State)
  | stuck
  deriving DecidableEq, Repr

/-- The next part of the pseudocode: an error ends the operation at once (R275). -/
def Res.andThen (r : Res) (k : State → Res) : Res :=
  match r with
  | .ok s => k s
  | .err e s => .err e s
  | .stuck => .stuck

/-- A part whose result is ignored (R252, R254). -/
def Res.ignoreErr (r : Res) : Res :=
  match r with
  | .ok s => .ok s
  | .err _ s => .ok s
  | .stuck => .stuck

/-- `SEQ <- q` (R13). -/
def State.setSeq (s : State) (q : SeqState) : State :=
  { s with seq := q, seqLog := s.seqLog ++ [q] }

/-- `TIMEOUT_CNT <- n`, a register of `TW` bits (R31). -/
def State.setTimeoutCnt (s : State) (n : Nat) : State := { s with timeoutCnt := s.params.ms n }

/-- `APC_TMP <- w` (R32). -/
def State.setApcTmp (s : State) (w : Word12) : State := { s with apcTmp := w }

/-- `CHIP_VARIANT <- v` (R20). -/
def State.setChipVariant (s : State) (v : VariantCode) : State := { s with chipVariant := v }

/-- `END_ADDRESS <- a` (R21). -/
def State.setEndAddress (s : State) (a : Addr) : State := { s with endAddress := a }

/-- `VOL_SRC <- src` (R22). -/
def State.setVolSrc (s : State) (src : VolSrc) : State := { s with volSrc := src }

/-- `INITIALIZED <- b` (R23). -/
def State.setInitialized (s : State) (b : Bool) : State := { s with initialized := b }

/-- `INTERRUPT_DONE <- b` (R24). -/
def State.setInterruptDone (s : State) (b : Bool) : State := { s with interruptDone := b }

/-- Which later port call never returns (93 U9). -/
def State.setHang (s : State) (h : Option Nat) : State := { s with hang := h }

/-- Appends one event to the trace (R10). -/
def State.emit (s : State) (e : Event) : State := { s with trace := s.trace ++ [e] }

/-! ## Port calls -/

/-- The answer of the next port call: the first of the list, or a free value (93 U2). -/
def State.answer (s : State) : Answer :=
  match s.answers with
  | a :: _ => a
  | [] => ⟨Config.freeOk s.draws, Vector.ofFn (Config.freeRx s.draws)⟩

/-- The state after that answer was taken. -/
def State.dropAnswer (s : State) : State :=
  match s.answers with
  | _ :: rest => { s with answers := rest }
  | [] => { s with draws := s.draws + 1 }

/-- A call of a port: it returns, or the engine stays busy for ever (93 U9). -/
def portReturns (s : State) : Res :=
  match s.hang with
  | none => .ok s
  | some 0 => .stuck
  | some (n + 1) => .ok (s.setHang (some n))

/-- A call of a port that answers with a success bit: the event is in the trace either way, and failure
raises `CommunicationFailure` (R9, R274). -/
def portCall (event : Bool → Event) (s : State) : Res :=
  (portReturns s).andThen fun s =>
    if s.answer.ok then .ok (s.dropAnswer.emit (event true))
    else .err .communicationFailure (s.dropAnswer.emit (event false))

/-- `PHY.init()` (R9). -/
def phyInit (s : State) : Res := portCall .phyInit s

/-- `PHY.deinit()` (R9). -/
def phyDeinit (s : State) : Res := portCall .phyDeinit s

/-- `GPIO.init()` (R9). -/
def gpioInit (s : State) : Res := portCall .gpioInit s

/-- `GPIO.deinit()` (R9). -/
def gpioDeinit (s : State) : Res := portCall .gpioDeinit s

/-- `GPIO.write(level)` (R9). -/
def gpioWrite (level : Bool) (s : State) : Res := portCall (.gpioWrite level) s

/-- `DELAY(ms)`: `DELAY(0)` does nothing and adds no event (R125). -/
def delay (ms : Nat) (s : State) : Res :=
  if ms = 0 then .ok s
  else (portReturns s).andThen fun s => .ok (s.emit (.delay ms))

/-- `EVENT(kind)`, when an event sink is connected (R285, R287). -/
def notify (kind : EventKind) (s : State) : Res :=
  if s.eventCbPresent then (portReturns s).andThen fun s => .ok (s.emit (.event kind))
  else .ok s

/-! ## The transceiver -/

/-- `bitrev8(b)`: `r[i] = b[7-i]` (R120). -/
def bitrev8 (b : Byte) : Byte := b.reverse

/-- Bytes `0..n-1` of a buffer replaced, the others as they were (R33). -/
def overlay (n : Nat) (bytes : List Byte) (old : FrameBuffer) : FrameBuffer :=
  Vector.ofFn fun i => if i.val < n then bytes.getD i.val 0 else old[i]

/-- The frame encoder's part of `XFER`: `FLEN <- n`, `TXBUF[i] <- tx[i]` (R122). -/
def State.loadFrame (s : State) (tx : List Byte) : State :=
  { s with flen := BitVec.ofNat 3 tx.length, txbuf := overlay tx.length tx s.txbuf }

/-- The wire bytes of the frame in `TXBUF[0..FLEN-1]` (R69, R122). -/
def State.wireFrame (s : State) : List Byte := (s.txbuf.toList.take s.flen.toNat).map bitrev8

/-- `RXBUF[i] <- bitrev8(wrx[i])` for `i < FLEN` (R122). -/
def State.receive (s : State) (wrx : FrameBuffer) : State :=
  { s with rxbuf := overlay s.flen.toNat (wrx.toList.map bitrev8) s.rxbuf }

/-- The exchange of the loaded frame at the PHY port: one indivisible event, no retry (R122, R123). -/
def exchange (s : State) : Res :=
  (portReturns s).andThen fun s =>
    if s.answer.ok then
      .ok ((s.dropAnswer.receive s.answer.rx).emit
        (.xfer s.wireFrame (s.answer.rx.toList.take s.flen.toNat)))
    else .err .communicationFailure (s.dropAnswer.emit (.xferFail s.wireFrame))

/-- `XFER(tx)` (R122). -/
def xfer (tx : List Byte) (s : State) : Res := exchange (s.loadFrame tx)

/-- The frame of the command `i`, exchanged; `CMD(op)` for an F-CMD opcode (R124). -/
def sendFrame (i : Instr) (s : State) : Res := xfer (encodeWith s.params i) s

/-! ## Status -/

/-- The unpacker: the latches from the three received bytes (R140). -/
def State.latchStatus (s : State) : State :=
  { s with status1 := rxStatus1 s.rxbuf, status2 := rxStatus2 s.rxbuf }

/-- `STATUS_READ(settle_ms)` (R142, R143): one status frame; one clear-interrupt frame and the settle delay if
EOM or INT was seen, before anything that could end the operation (decision D11). -/
def statusRead (settle : Nat) (s : State) : Res :=
  (sendFrame .rdStatus s).andThen fun s =>
    if s.latchStatus.irqPending then
      (sendFrame .clrInt s.latchStatus).andThen (delay settle)
    else .ok s.latchStatus

/-- The command-error test of a completion check (R145, R277). -/
def checkCmdErr (s : State) : Res :=
  if s.cmdErr then .err .chipReportedError (s.setSeq .commandError) else .ok s

/-- The loop of `CHECK_STATUS` in poll mode, with `n` the value of `TIMEOUT_CNT` (R145): read, error test, exit
test, delay 10, decrement. -/
def pollLoop (mask : Byte) (settle : Nat) : Nat → State → Res
  | 0, s => .err .timeout (s.setSeq .timedOut)
  | n + 1, s =>
      ((statusRead settle s).andThen checkCmdErr).andThen fun s =>
        if s.status2 &&& mask = 0 then .ok s
        else (delay 10 s).andThen fun s =>
          pollLoop mask settle n
            ((s.setTimeoutCnt (s.timeoutCnt - 1)).setSeq .polling)

/-- `CHECK_STATUS(NoPoll, settle_ms)` (R145). -/
def checkNoPoll (settle : Nat) (s : State) : Res :=
  ((delay settle s).andThen (statusRead settle)).andThen checkCmdErr

/-- `CHECK_STATUS(Poll(mask, timeout_ms), settle_ms)` (R145). -/
def checkPoll (mask : Byte) (timeout settle : Nat) (s : State) : Res :=
  (delay settle s).andThen fun s =>
    pollLoop mask settle (s.setTimeoutCnt (timeoutLoad timeout)).timeoutCnt
      ((s.setTimeoutCnt (timeoutLoad timeout)).setSeq .polling)

/-! ## The APC word -/

/-- `APC_READ()` into `APC_TMP` (R160). -/
def apcRead (s : State) : Res :=
  (sendFrame .rdApc s).andThen fun s => .ok (s.setApcTmp (rxApc s.rxbuf))

/-- `APC_WRITE(w, src)`: the opcode is 0x45 for button and 0x65 for register (R161, R162). -/
def apcWrite (w : Word12) (src : VolSrc) (s : State) : Res :=
  match src with
  | .button => sendFrame (.wrApcBtn w) s
  | .register => sendFrame (.wrApcReg w) s

/-- `APC_FIELD_SET(f, v)` (R164): read, modify `APC_TMP`, write back with the opcode of `VOL_SRC`. -/
def apcFieldSet (f : ApcField) (v : Word12) (s : State) : Res :=
  (apcRead s).andThen fun s =>
    apcWrite (apcInsert s.params f v s.apcTmp) s.volSrc
      (s.setApcTmp (apcInsert s.params f v s.apcTmp))

/-! ## Checks, ends of an operation -/

/-- `REQUIRE_INIT()` (R276). -/
def requireInit (s : State) : Res :=
  if s.initialized then .ok s else .err .notInitialized s

/-- `RANGE_CHECK(start, end)` (R230). -/
def rangeCheck (start last : Addr) (s : State) : Res :=
  if rangeLegal start last s.endAddress then .ok s else .err .invalidArgument s

/-- The terminal state of an operation that ends with `e` (R275, decision D27). -/
def terminalOf : ErrCode → SeqState
  | .chipReportedError => .commandError
  | .timeout => .timedOut
  | .ok | .invalidArgument | .notInitialized | .communicationFailure | .identityMismatch
  | .unknownVariant | .missingBinding => .completed

/-- From `CommandError` or `TimedOut` back to `CommandIssued`, inside INIT and DEINIT only (R290). -/
def State.backToIssued (s : State) : State :=
  if s.seq = .commandError ∨ s.seq = .timedOut then s.setSeq .commandIssued else s

/-- Enters a terminal state, unless the sequencer is there already. -/
def State.enter (s : State) (q : SeqState) : State := if s.seq = q then s else s.setSeq q

/-- `RDATA` becomes a free value: the operation delivers no data (R34). -/
def State.freeRdata (s : State) : State :=
  { s with rdata := Config.freeData s.draws, draws := s.draws + 1 }

/-- `return Ok` or `return Ok(v)`: `SEQ <- Completed`, `RESULT` and `RDATA` are written, and the sequencer
returns to `Idle` (R13, R34, R290). -/
def State.endOk (s : State) (data : Option Data) : State :=
  match data with
  | some d => ({ s.setSeq .completed with result := .ok, rdata := d }).setSeq .idle
  | none => ({ (s.setSeq .completed).freeRdata with result := .ok }).setSeq .idle

/-- `raise E`: the terminal state, `RESULT <- E`, back to `Idle` (R275). -/
def State.endErr (s : State) (e : ErrCode) : State :=
  ({ (s.enter (terminalOf e)).freeRdata with result := e }).setSeq .idle

/-- The end of an operation whose pseudocode came to `r`; its data is read from the state it leaves. -/
def finish (r : Res) (data : State → Option Data) : Host.Outcome State Fault Refusal :=
  match r with
  | .ok s => .next (s.endOk (data s))
  | .err e s => .next (s.endErr e)
  | .stuck => .fault .portNeverReturns

/-- One operation: accepted only when the sequencer is idle (R7, 93 U1), run to its result (R6, R290). -/
def operation (body : State → Res) (data : State → Option Data) (s : State) :
    Host.Outcome State Fault Refusal :=
  if s.seq = .idle then finish (body (s.setSeq .commandIssued)) data
  else .refused .requestWhileBusy

/-- One gated operation: `REQUIRE_INIT()` first (R215, R276). -/
def gated (body : State → Res) (data : State → Option Data) (s : State) :
    Host.Outcome State Fault Refusal :=
  operation (fun s => (requireInit s).andThen body) data s

/-- No result data. -/
def noData (_ : State) : Option Data := none

/-! ## Post-checks -/

/-- `POSTCHECK` of the operation that sends a row's frame (R200); `GET_STATUS` has no entry. -/
def postCheckOf (p : Params) : Instr → PostCheck
  | .pu => p.postCheck.powerUp
  | .pd => p.postCheck.powerDown
  | .stop => p.postCheck.stop
  | .reset => p.postCheck.reset
  | .clrInt => p.postCheck.clearInterrupt
  | .fwd => p.postCheck.next
  | .chkMem => p.postCheck.checkMemory
  | .rdStatus => .nothing
  | .rdPlayPtr => p.postCheck.readPlayPointer
  | .rdRecPtr => p.postCheck.readRecordPointer
  | .rdDevid => p.postCheck.readDeviceId
  | .rdApc => p.postCheck.readApc
  | .wrApcBtn _ => p.postCheck.writeApc
  | .wrApcReg _ => p.postCheck.writeApc
  | .wrNvcfg => p.postCheck.writeNvConfig
  | .ldNvcfg => p.postCheck.loadNvConfig
  | .extclk => p.postCheck.toggleExtClock
  | .setPlay _ _ => p.postCheck.setPlayRange
  | .setRec _ _ => p.postCheck.setRecordRange
  | .setErase _ _ => p.postCheck.setEraseRange
  | .play => p.postCheck.play
  | .record => p.postCheck.record
  | .erase => p.postCheck.erase
  | .gErase => p.postCheck.globalErase

/-- Runs a post-check. -/
def runPostCheck (c : PostCheck) (s : State) : Res :=
  match c with
  | .nothing => .ok s
  | .settle ms => delay ms s
  | .errorCheck settle => checkNoPoll settle s
  | .poll mask timeout settle => checkPoll (pollByte s.params mask) timeout settle s

/-- The body of an operation that is one command frame and its post-check (R200, R215). -/
def command (i : Instr) (s : State) : Res :=
  (sendFrame i s).andThen (runPostCheck (postCheckOf s.params i))

/-- The body of a range setter: the check precedes the frame (R230, R239). -/
def rangeCommand (i : Instr) (start last : Addr) (s : State) : Res :=
  (rangeCheck start last s).andThen (command i)

/-- The data of a read operation requested at `s`: what its frame delivers, whatever its post-check exchanges
after it (R208, R209, R210). -/
def frameData (i : Instr) (data : FrameBuffer → Data) (s : State) : Option Data :=
  match sendFrame i (s.setSeq .commandIssued) with
  | .ok t => some (data t.rxbuf)
  | .err _ _ | .stuck => none

/-- From `Polling` back to `CommandIssued`: the wait succeeded and the operation has further steps (R290). -/
def State.proceed (s : State) : State := if s.seq = .polling then s.setSeq .commandIssued else s

/-- A part of INIT or DEINIT with a post-check, after which the operation has further steps (R252, R254). -/
def Res.proceed (r : Res) : Res := r.andThen fun s => .ok s.proceed

end Sys2Proof.Machine
end

