-- ==== Sys2Proof/Machine/Apc.lean ====
section
/-! DEFINITION. The operations on the chip's APC word (42_apc_accessors.md): the whole-word rows, and the generic
bodies of the field accessors and of the volume-control source. -/

namespace Sys2Proof.Machine

/-- READ_APC (R160, R167). -/
def execRdApc (s : State) : Host.Outcome State Fault Refusal :=
  gated (fun s => (apcRead s).andThen (runPostCheck (postCheckOf s.params .rdApc)))
    (fun s => some (s.apcTmp.setWidth 16)) s

/-- The row WR_APC_BTN: `APC_WRITE(w, button)` (R161), as a gated operation. -/
def execWrApcBtn (w : Word12) (s : State) : Host.Outcome State Fault Refusal :=
  gated (fun s => (apcWrite w .button s).andThen (runPostCheck (postCheckOf s.params (.wrApcBtn w))))
    noData s

/-- The row WR_APC_REG: `APC_WRITE(w, register)` (R161), as a gated operation. -/
def execWrApcReg (w : Word12) (s : State) : Host.Outcome State Fault Refusal :=
  gated (fun s => (apcWrite w .register s).andThen (runPostCheck (postCheckOf s.params (.wrApcReg w))))
    noData s

/-- WRITE_APC (R168): the opcode of the handle's `VOL_SRC`, no polarity applied. -/
def hostWriteApc (w : Word12) (s : State) : Host.Outcome State Fault Refusal :=
  gated (fun s => (apcWrite w s.volSrc s).andThen (runPostCheck s.params.postCheck.writeApc)) noData s

/-- `APC_FIELD_SET(f, v)` and the setter's post-check, after its second frame (R164, R200). -/
def checkedFieldSet (f : ApcField) (v : Word12) (s : State) : Res :=
  (apcFieldSet f v s).andThen (runPostCheck s.params.postCheck.setField[f.index])

/-- A field setter (R164, R191). -/
def hostFieldSet (f : ApcField) (v : Word12) (s : State) : Host.Outcome State Fault Refusal :=
  gated (checkedFieldSet f v) noData s

/-- A field getter (R165, R191). -/
def hostFieldGet (f : ApcField) (s : State) : Host.Outcome State Fault Refusal :=
  gated (fun s => (apcRead s).andThen (runPostCheck s.params.postCheck.getField[f.index]))
    (fun s => some ((apcExtract s.params f s.apcTmp).setWidth 16)) s

/-- SET_VOLUME (R166): the level check precedes every frame. -/
def hostSetVolume (level : Byte) (s : State) : Host.Outcome State Fault Refusal :=
  gated (fun s =>
    if level > 7 then .err .invalidArgument s
    else checkedFieldSet .volume (level.setWidth 12 &&& 7) s) noData s

/-- SET_VOLUME_CONTROL (R186): the word is written back unchanged with the opcode of the operand, and
`VOL_SRC` is written only after that, and the post-check of its frame, succeeded. Where an instance's table has a
poll there, the write of `VOL_SRC` counts as no further step of R290: `SEQ` goes from `Polling` to `Completed`
(DESIGN CHOICE, assumption 28). -/
def hostSetVolumeControl (src : VolSrc) (s : State) : Host.Outcome State Fault Refusal :=
  gated (fun s =>
    (((apcRead s).andThen fun s => apcWrite s.apcTmp src s).andThen
      (runPostCheck s.params.postCheck.setVolumeControl)).andThen fun s =>
        .ok (s.setVolSrc src)) noData s

/-- GET_VOLUME_CONTROL (R189): no frame, the value lives in the handle. -/
def hostGetVolumeControl (s : State) : Host.Outcome State Fault Refusal :=
  gated .ok (fun s => some (s.volSrc.code.setWidth 16)) s

end Sys2Proof.Machine
end

