-- ==== Sys2Proof/Machine/Execute.lean ====
section
/-! DEFINITION. The range setters and the execute commands (44_range_execute.md R230 to R240). -/

namespace Sys2Proof.Machine

/-- SET_PLAY_RANGE (R231). -/
def execSetPlay (start last : Addr) (s : State) : Host.Outcome State Fault Refusal :=
  gated (rangeCommand (.setPlay start last) start last) noData s

/-- SET_RECORD_RANGE (R232). -/
def execSetRec (start last : Addr) (s : State) : Host.Outcome State Fault Refusal :=
  gated (rangeCommand (.setRec start last) start last) noData s

/-- SET_ERASE_RANGE (R233). -/
def execSetErase (start last : Addr) (s : State) : Host.Outcome State Fault Refusal :=
  gated (rangeCommand (.setErase start last) start last) noData s

/-- PLAY (R234, R240): issued, not awaited. -/
def execPlay (s : State) : Host.Outcome State Fault Refusal := gated (command .play) noData s

/-- RECORD (R235). -/
def execRecord (s : State) : Host.Outcome State Fault Refusal := gated (command .record) noData s

/-- ERASE (R236). -/
def execErase (s : State) : Host.Outcome State Fault Refusal := gated (command .erase) noData s

/-- GLOBAL_ERASE (R237). -/
def execGErase (s : State) : Host.Outcome State Fault Refusal := gated (command .gErase) noData s

end Sys2Proof.Machine
end

