-- ==== Sys2Proof/Machine/Housekeeping.lean ====
section
/-! DEFINITION. The rows of 43_simple_commands.md: power, stop, reset, interrupt clear, next, memory check,
register reads, and the commands the source gives only as opcodes. Each is `REQUIRE_INIT(); body;
SEQ <- Completed; return Ok` (R215). -/

namespace Sys2Proof.Machine

/-- POWER_UP (R201): the frame, and in the table R200 prints `DELAY(100)` and up to 100 status reads until
`STATUS2 & M_RDY` is 0. -/
def execPu (s : State) : Host.Outcome State Fault Refusal := gated (command .pu) noData s

/-- STOP (R203). -/
def execStop (s : State) : Host.Outcome State Fault Refusal := gated (command .stop) noData s

/-- RESET, the chip's command (R204): no status read, no handle register written. -/
def execReset (s : State) : Host.Outcome State Fault Refusal := gated (command .reset) noData s

/-- CLEAR_INTERRUPT (R205). -/
def execClrInt (s : State) : Host.Outcome State Fault Refusal := gated (command .clrInt) noData s

/-- POWER_DOWN (R202). -/
def execPd (s : State) : Host.Outcome State Fault Refusal := gated (command .pd) noData s

/-- NEXT (R206). -/
def execFwd (s : State) : Host.Outcome State Fault Refusal := gated (command .fwd) noData s

/-- CHECK_MEMORY (R207). -/
def execChkMem (s : State) : Host.Outcome State Fault Refusal := gated (command .chkMem) noData s

/-- READ_PLAY_POINTER (R208): the 11-bit pointer of the response. -/
def execRdPlayPtr (s : State) : Host.Outcome State Fault Refusal :=
  gated (command .rdPlayPtr) (fun _ => frameData .rdPlayPtr (fun b => (rxPointer b).setWidth 16) s) s

/-- READ_RECORD_POINTER (R209). -/
def execRdRecPtr (s : State) : Host.Outcome State Fault Refusal :=
  gated (command .rdRecPtr) (fun _ => frameData .rdRecPtr (fun b => (rxPointer b).setWidth 16) s) s

/-- READ_DEVICE_ID (R210). -/
def execRdDevid (s : State) : Host.Outcome State Fault Refusal :=
  gated (command .rdDevid) (fun _ => frameData .rdDevid (fun b => (rxDeviceId b).setWidth 16) s) s

/-- WRITE_NV_CONFIG (R211): one bare frame. -/
def execWrNvcfg (s : State) : Host.Outcome State Fault Refusal := gated (command .wrNvcfg) noData s

/-- LOAD_NV_CONFIG (R212): one bare frame. -/
def execLdNvcfg (s : State) : Host.Outcome State Fault Refusal := gated (command .ldNvcfg) noData s

/-- TOGGLE_EXT_CLOCK (R213): one bare frame. -/
def execExtclk (s : State) : Host.Outcome State Fault Refusal := gated (command .extclk) noData s

end Sys2Proof.Machine
end

