-- ==== Sys2Proof/Machine/Status.lean ====
section
/-! DEFINITION. The operations on the status word: GET_STATUS, POLL_WAIT (41_status_polling.md R148, R149) and
IRQ_HANDLER (60_exceptions.md R285). -/

namespace Sys2Proof.Machine

/-- GET_STATUS (R148): one raw status read; STATUS1 is the data, STATUS2 stands on its latch (R34). The
command-error bit is no error here (decision D12). -/
def execRdStatus (s : State) : Host.Outcome State Fault Refusal :=
  gated (statusRead 0) (fun s => some s.status1) s

/-- POLL_WAIT (R149); the host port carries `TW` bits of each time (R100, assumption 21). -/
def hostPollWait (mask : Byte) (timeout settle : Nat) (s : State) : Host.Outcome State Fault Refusal :=
  gated (checkPoll mask (s.params.ms timeout) (s.params.ms settle)) noData s

/-- The dispatch of IRQ_HANDLER after its status read: EOM, then INT (R285). -/
def irqDispatch (s : State) : Res :=
  (if s.eom then notify .eom s else .ok s).andThen fun s =>
    if s.int then notify .int (s.setInterruptDone true) else .ok s

/-- IRQ_HANDLER (R285). -/
def hostIrqHandler (s : State) : Host.Outcome State Fault Refusal :=
  gated (fun s => (statusRead 0 s).andThen irqDispatch) noData s

end Sys2Proof.Machine
end

