-- ==== Sys2Proof/Machine/Dispatch.lean ====
section
/-! DEFINITION. The meaning of every row of spec/opcode_table.json, one arm each. -/

namespace Sys2Proof.Machine

def exec (i : Instr) (s : State) : Host.Outcome State Fault Refusal :=
  match i with
  | .pu => Sys2Proof.Machine.execPu s
  | .stop => Sys2Proof.Machine.execStop s
  | .reset => Sys2Proof.Machine.execReset s
  | .clrInt => Sys2Proof.Machine.execClrInt s
  | .rdStatus => Sys2Proof.Machine.execRdStatus s
  | .rdPlayPtr => Sys2Proof.Machine.execRdPlayPtr s
  | .pd => Sys2Proof.Machine.execPd s
  | .rdRecPtr => Sys2Proof.Machine.execRdRecPtr s
  | .rdDevid => Sys2Proof.Machine.execRdDevid s
  | .play => Sys2Proof.Machine.execPlay s
  | .record => Sys2Proof.Machine.execRecord s
  | .erase => Sys2Proof.Machine.execErase s
  | .gErase => Sys2Proof.Machine.execGErase s
  | .rdApc => Sys2Proof.Machine.execRdApc s
  | .wrApcBtn w => Sys2Proof.Machine.execWrApcBtn w s
  | .wrApcReg w => Sys2Proof.Machine.execWrApcReg w s
  | .wrNvcfg => Sys2Proof.Machine.execWrNvcfg s
  | .ldNvcfg => Sys2Proof.Machine.execLdNvcfg s
  | .fwd => Sys2Proof.Machine.execFwd s
  | .chkMem => Sys2Proof.Machine.execChkMem s
  | .extclk => Sys2Proof.Machine.execExtclk s
  | .setPlay start last => Sys2Proof.Machine.execSetPlay start last s
  | .setRec start last => Sys2Proof.Machine.execSetRec start last s
  | .setErase start last => Sys2Proof.Machine.execSetErase start last s

end Sys2Proof.Machine
end

