-- ==== Sys2Proof/Machine/Session.lean ====
section
/-! DEFINITION. The session operations (45_session.md): SET_TYPE, GET_TYPE, INIT, DEINIT, the interrupt-done
accessors, and the engine's own reset (70_reset_and_hazards.md R310). -/

namespace Sys2Proof.Machine

/-- SET_TYPE (R250): not gated; only `CHIP_VARIANT` is written. -/
def hostSetType (v : VariantCode) (s : State) : Host.Outcome State Fault Refusal :=
  operation (fun s => .ok (s.setChipVariant v)) noData s

/-- GET_TYPE (R251). -/
def hostGetType (s : State) : Host.Outcome State Fault Refusal :=
  operation .ok (fun s => some (s.chipVariant.setWidth 16)) s

/-- GET_INT_DONE (R255). -/
def hostGetIntDone (s : State) : Host.Outcome State Fault Refusal :=
  operation .ok (fun s => some (boolData s.interruptDone)) s

/-- CLR_INT_DONE (R256), the only operation that clears the flag. -/
def hostClrIntDone (s : State) : Host.Outcome State Fault Refusal :=
  operation (fun s => .ok (s.setInterruptDone false)) noData s

/-- `RELEASE()`: both ports closed, both results ignored (R252). -/
def release (s : State) : Res :=
  (phyDeinit s).ignoreErr.andThen fun s => (gpioDeinit s).ignoreErr

/-- `RELEASE()` and then `raise e` (R252, R290). -/
def releaseAndRaise (e : ErrCode) (s : State) : Res :=
  (release s.backToIssued).andThen fun s => .err e s

/-- `try X`: an error of `X` is raised after `RELEASE()` (R252). -/
def Res.orRelease (r : Res) : Res :=
  match r with
  | .ok s => .ok s
  | .err e s => releaseAndRaise e s
  | .stuck => .stuck

/-- Steps 2 and 3 of INIT: PHY, then GPIO opened (R252, decision D31). -/
def openPorts (s : State) : Res :=
  (phyInit s).andThen fun s =>
    match gpioInit s with
    | .ok s => .ok s
    | .err e s => (phyDeinit s).ignoreErr.andThen fun s => .err e s
    | .stuck => .stuck

/-- Step 4 of INIT: the reset pulse, high 1 ms, low 1 ms (R252). -/
def resetPulse (s : State) : Res :=
  (((gpioWrite true s).orRelease.andThen (delay 1)).andThen fun s =>
    (gpioWrite false s).orRelease).andThen (delay 1)

/-- Steps 5 and 9 of INIT: `try body`, for the body of POWER_UP and of RESET (R252). -/
def tryCommand (i : Instr) (s : State) : Res := (command i s).proceed.orRelease

/-- Steps 7 and 8 of INIT, with the id that the device-id frame delivered: `UnknownVariant` before
`IdentityMismatch`, then the end address (R252, R279). -/
def identify (id : Byte) (s : State) : Res :=
  match variantOfCode s.chipVariant with
  | none => releaseAndRaise .unknownVariant s
  | some v =>
      if id = deviceIdOf s.params v then .ok (s.setEndAddress (endAddrOf v))
      else releaseAndRaise .identityMismatch s

/-- Steps 6 to 8 of INIT: `try body of READ_DEVICE_ID`, frame and post-check, and the identification (R252). -/
def identityCheck (s : State) : Res :=
  (sendFrame .rdDevid s).orRelease.andThen fun s =>
    (runPostCheck (postCheckOf s.params .rdDevid) s).proceed.orRelease.andThen
      (identify (rxDeviceId s.rxbuf))

/-- Steps 10 and 11 of INIT (R252). -/
def State.markReady (s : State) : State := (s.setVolSrc .register).setInitialized true

/-- The pseudocode of INIT (R252). -/
def initBody (s : State) : Res :=
  if s.bindingsOk then
    (((((openPorts s).andThen resetPulse).andThen (tryCommand .pu)).andThen identityCheck).andThen
      (tryCommand .reset)).andThen fun s => .ok s.markReady
  else .err .missingBinding s

/-- INIT (R252). With `INITIALIZED = 1` the source gives it no meaning: refused (R257, 93 U3). -/
def hostInit (s : State) : Host.Outcome State Fault Refusal :=
  if s.seq = .idle ∧ s.initialized then .refused .initWhileInitialized
  else operation initBody noData s

/-- The power-down step of DEINIT: any error is discarded (R254, conflict C9). -/
def deinitPowerDown (s : State) : Res :=
  match (command .pd s).proceed with
  | .ok s => .ok s
  | .err _ s => .ok s.backToIssued
  | .stuck => .stuck

/-- The pseudocode of DEINIT after its gate (R254). -/
def deinitBody (s : State) : Res :=
  (((deinitPowerDown s).andThen phyDeinit).andThen gpioDeinit).andThen fun s =>
    .ok (s.setInitialized false)

/-- DEINIT (R254). -/
def hostDeinit (s : State) : Host.Outcome State Fault Refusal := gated deinitBody noData s

/-- Engine reset (R310, R311): every register at its reset value; no frame, no port, the straps and the trace as
they are. -/
def State.engineReset (s : State) : State :=
  { State.reset with
    bindingsOk := s.bindingsOk
    eventCbPresent := s.eventCbPresent
    params := s.params
    inputs := s.inputs
    answers := s.answers
    hang := s.hang
    trace := s.trace
    draws := s.draws }

end Sys2Proof.Machine
end

