-- ==== Sys2Proof/Machine/HostPort.lean ====
section
/-! DEFINITION. The host port: the meaning of every operation of 30_encoding.md R100, and of every other
outside event. An operation that sends one row's command has that row's meaning. -/

namespace Sys2Proof.Machine

/-- The meaning of each host operation (R100). -/
def execHost (o : HostOp) (s : State) : Host.Outcome State Fault Refusal :=
  match o with
  | .setType v => hostSetType v s
  | .getType => hostGetType s
  | .init => hostInit s
  | .deinit => hostDeinit s
  | .getIntDone => hostGetIntDone s
  | .clrIntDone => hostClrIntDone s
  | .powerUp => exec .pu s
  | .powerDown => exec .pd s
  | .stop => exec .stop s
  | .reset => exec .reset s
  | .clearInterrupt => exec .clrInt s
  | .next => exec .fwd s
  | .checkMemory => exec .chkMem s
  | .readPlayPointer => exec .rdPlayPtr s
  | .readRecordPointer => exec .rdRecPtr s
  | .readDeviceId => exec .rdDevid s
  | .writeNvConfig => exec .wrNvcfg s
  | .loadNvConfig => exec .ldNvcfg s
  | .toggleExtClock => exec .extclk s
  | .getStatus => exec .rdStatus s
  | .pollWait mask timeout settle => hostPollWait mask timeout settle s
  | .irqHandler => hostIrqHandler s
  | .readApc => exec .rdApc s
  | .writeApc w => hostWriteApc w s
  | .setVolume level => hostSetVolume level s
  | .getVolume => hostFieldGet .volume s
  | .setMonitorInput b => hostFieldSet .monitorInput (boolField b) s
  | .getMonitorInput => hostFieldGet .monitorInput s
  | .setMixInput b => hostFieldSet .mixInput (boolField b) s
  | .getMixInput => hostFieldGet .mixInput s
  | .setSeEditing b => hostFieldSet .seEditing (boolField b) s
  | .getSeEditing => hostFieldGet .seEditing s
  | .setSpiFt b => hostFieldSet .spiFt (boolField b) s
  | .getSpiFt => hostFieldGet .spiFt s
  | .setAnalogOutput route => hostFieldSet .analogOutput (route.setWidth 12) s
  | .getAnalogOutput => hostFieldGet .analogOutput s
  | .setPwmSpeaker b => hostFieldSet .pwmSpeaker (boolField b) s
  | .getPwmSpeaker => hostFieldGet .pwmSpeaker s
  | .setPuAnalogOutput b => hostFieldSet .puAnalogOutput (boolField b) s
  | .getPuAnalogOutput => hostFieldGet .puAnalogOutput s
  | .setVoltageAlert b => hostFieldSet .voltageAlert (boolField b) s
  | .getVoltageAlert => hostFieldGet .voltageAlert s
  | .setEomStop b => hostFieldSet .eomStop (boolField b) s
  | .getEomStop => hostFieldGet .eomStop s
  | .setVolumeControl src => hostSetVolumeControl src s
  | .getVolumeControl => hostGetVolumeControl s
  | .setPlayRange start last => exec (.setPlay start last) s
  | .setRecordRange start last => exec (.setRec start last) s
  | .setEraseRange start last => exec (.setErase start last) s
  | .play => exec .play s
  | .record => exec .record s
  | .erase => exec .erase s
  | .globalErase => exec .gErase s

/-- One outside event at the idle engine. Bytes that are no frame of the engine select no operation: nothing
is accepted and no state changes (R92, R101). The straps and the engine reset are no requests. -/
def runInput (i : Input) (s : State) : Host.Outcome State Fault Refusal :=
  match i with
  | .frame bytes =>
      match decode bytes with
      | .ok i => exec i s
      | .error _ => .next s
  | .op o => execHost o s
  | .straps bindingsOk eventCbPresent =>
      .next { s with bindingsOk := bindingsOk, eventCbPresent := eventCbPresent }
  | .engineReset => .next s.engineReset

/-- The frame that a table word stands for: the bytes of its opcode's format; all seven where the opcode is
none of R90. -/
def tableFrame (nbits w : Nat) : List Byte :=
  match formatOf ((tableBytes nbits w).headD 0) with
  | some f => (tableBytes nbits w).take f.tableLength
  | none => tableBytes nbits w

end Sys2Proof.Machine
end

