-- ==== Sys2Proof/Machine/Step.lean ====
section
/-! DEFINITION. One step: the engine, when idle, takes the next outside event and runs it to its end
(00_scope.md R6, R7; 60_exceptions.md R290). -/

namespace Sys2Proof.Machine

/-- One step. Idle with nothing requested, the engine stays as it is (R312). From a terminal state it returns
to `Idle` with no further effect (R30). -/
def step (s : State) : Host.Outcome State Fault Refusal :=
  match s.seq with
  | .idle =>
      match s.inputs with
      | [] => .next s
      | i :: rest => runInput i { s with inputs := rest }
  | .completed | .timedOut | .commandError => .next (s.setSeq .idle)
  | .commandIssued | .polling => .refused .operationInProgress

/-- `s` with the table word's frame as the next request, at the idle engine. -/
def State.withFetchWord (s : State) (nbits w : Nat) : State :=
  { s with seq := .idle, inputs := .frame (tableFrame nbits w) :: s.inputs }

end Sys2Proof.Machine
end

