-- ==== Sys2Proof/Safety.lean ====
section
/-! DEFINITION. The terms in which claims about the engine are stated: what an operation may leave changed, the
answers its port calls will get, the frames of a trace, the transitions of the sequencer, and the invariant. -/

namespace Sys2Proof.Machine

/-! ## Frames: what is unchanged -/

/-- The handle registers are unchanged (R20 to R24, R214). -/
abbrev handleKept (s t : State) : Prop :=
  t.chipVariant = s.chipVariant ∧ t.endAddress = s.endAddress ∧ t.volSrc = s.volSrc
    ∧ t.initialized = s.initialized ∧ t.interruptDone = s.interruptDone

/-- The status latches are unchanged (R26, R27). -/
abbrev statusKept (s t : State) : Prop := t.status1 = s.status1 ∧ t.status2 = s.status2

/-- What no operation writes: the straps, the parameters, and the host's requests to come (R17, R25). -/
abbrev instanceKept (s t : State) : Prop :=
  t.bindingsOk = s.bindingsOk ∧ t.eventCbPresent = s.eventCbPresent ∧ t.params = s.params
    ∧ t.inputs = s.inputs

/-- The frame buffers are unchanged (R33). -/
abbrev buffersKept (s t : State) : Prop :=
  t.txbuf = s.txbuf ∧ t.rxbuf = s.rxbuf ∧ t.flen = s.flen

/-- Everything but `RESULT`, `RDATA`, the sequencer and the model's own fields is as before, the trace too. -/
abbrev nothingDone (s t : State) : Prop :=
  handleKept s t ∧ statusKept s t ∧ instanceKept s t ∧ buffersKept s t
    ∧ t.timeoutCnt = s.timeoutCnt ∧ t.apcTmp = s.apcTmp ∧ t.trace = s.trace
    ∧ t.answers = s.answers ∧ t.hang = s.hang

/-- A command frame that is followed by no status read: the handle, the latches, the counter and `APC_TMP` are
as before. -/
abbrev commandFrame (s t : State) : Prop :=
  handleKept s t ∧ statusKept s t ∧ instanceKept s t ∧ t.timeoutCnt = s.timeoutCnt
    ∧ t.apcTmp = s.apcTmp

/-- The operation ended with `e` and the engine is idle (R30, R34, R275). -/
abbrev endedWith (t : State) (e : ErrCode) : Prop := t.result = e ∧ t.seq = .idle

/-! ## The environment of an operation -/

/-- A gated operation can start, the parameters are legal, and every port call returns (R276, R5, R326). -/
abbrev State.ready (s : State) : Prop :=
  s.seq = .idle ∧ s.initialized = true ∧ s.params.valid = true ∧ s.hang = none

/-- As `ready`, at an instance with the post-check table that R200 prints. -/
abbrev State.asPrinted (s : State) : Prop := s.ready ∧ s.params.postCheck = PostChecks.printed

/-- The operands of a range setter pass `RANGE_CHECK`; every other row has no operand to check (R230, R239). -/
abbrev State.accepts (s : State) (i : Instr) : Prop :=
  ∀ a b, i = .setPlay a b ∨ i = .setRec a b ∨ i = .setErase a b → rangeLegal a b s.endAddress = true

/-- The answer of the port call after `k` more: of the list, or a free value (93 U2). -/
def State.answerAt (s : State) (k : Nat) : Answer :=
  match s.answers[k]? with
  | some a => a
  | none => ⟨Config.freeOk (s.draws + (k - s.answers.length)),
      Vector.ofFn (Config.freeRx (s.draws + (k - s.answers.length)))⟩

/-- The next `n` port calls that answer succeed. -/
abbrev State.portsOk (s : State) (n : Nat) : Prop := ∀ k, k < n → (s.answerAt k).ok = true

/-- The logical byte at index `i` of the frame received at the port call after `k` more (R69). -/
def State.rxAt (s : State) (k : Nat) (i : Fin 7) : Byte := bitrev8 (s.answerAt k).rx[i]

/-- The STATUS1 word that the status frame at port call `k` delivers (R140). -/
def State.status1At (s : State) (k : Nat) : BitVec 16 := s.rxAt k 1 ++ s.rxAt k 0

/-- The STATUS2 byte that the status frame at port call `k` delivers (R140). -/
def State.status2At (s : State) (k : Nat) : Byte := s.rxAt k 2

/-- That status word has EOM or INT set (R142). -/
def State.irqAt (s : State) (k : Nat) : Bool :=
  (s.status1At k).getLsbD s.params.s1Eom || (s.status1At k).getLsbD s.params.s1Int

/-- That status word has the command-error bit set (R26). -/
def State.cmdErrAt (s : State) (k : Nat) : Bool := (s.status1At k).getLsbD 0

/-- The APC word that the read-APC frame at port call `k` delivers (R160). -/
def State.apcAt (s : State) (k : Nat) : Word12 :=
  ((s.rxAt k 3 &&& 0x0F#8).setWidth 12 <<< 8) ||| (s.rxAt k 2).setWidth 12

/-! ## Frames and events of a trace -/

/-- A command-only frame, F-CMD (R81). -/
def cmdFrame (p : Params) (op : Byte) : List Byte := op :: List.replicate (p.lCmd - 1) p.pad

/-- A frame of format F-RD3 (R82, R83). -/
def rd3Frame (p : Params) (op : Byte) : List Byte := op :: List.replicate (p.lRd3 - 1) p.pad

/-- A frame of format F-RD4 (R84, R85). -/
def rd4Frame (p : Params) (op : Byte) : List Byte := op :: List.replicate (p.lRd4 - 1) p.pad

/-- A frame of format F-WR3 (R86). -/
def wr3Frame (op : Byte) (w : Word12) : List Byte :=
  [op, w.setWidth 8, (w >>> 8).setWidth 8 &&& 0x0F#8]

/-- A frame of format F-RNG (R87): `[op, PAD, s_lo, s_hi & 7, e_lo, e_hi & 7]`, padded to `L_RNG`; with `L_RNG` of
5 the opcode and the payload alone (assumption 16). -/
def rngFrame (p : Params) (op : Byte) (start last : Addr) : List Byte :=
  if p.lRng = 5 then
    [op, start.setWidth 8, (start >>> 8).setWidth 8 &&& 0x07#8,
      last.setWidth 8, (last >>> 8).setWidth 8 &&& 0x07#8]
  else
    [op, p.pad, start.setWidth 8, (start >>> 8).setWidth 8 &&& 0x07#8,
      last.setWidth 8, (last >>> 8).setWidth 8 &&& 0x07#8] ++ List.replicate (p.lRng - 6) p.pad

/-- The event of the successful exchange of a logical frame at port call `k`: wire bytes out and in (R69). -/
def State.xferAt (s : State) (k : Nat) (frame : List Byte) : Event :=
  .xfer (frame.map bitrev8) ((s.answerAt k).rx.toList.take frame.length)

/-- The events of `DELAY(ms)` (R125). -/
def delayEvents (ms : Nat) : List Event := if ms = 0 then [] else [.delay ms]

/-- The events of `STATUS_READ(settle)` whose status frame is port call `k` and whose frames succeed (R142). -/
def State.statusEvents (s : State) (k : Nat) (settle : Nat) : List Event :=
  s.xferAt k (rd3Frame s.params 0x05) ::
    (if s.irqAt k then s.xferAt (k + 1) (cmdFrame s.params 0x04) :: delayEvents settle else [])

/-- The port call of sample `k` of a wait whose first sample is port call `n`: a sample that shows EOM or INT is
followed by its clear-interrupt frame (R142, R145). -/
def State.sampleAt (s : State) (n : Nat) : Nat → Nat
  | 0 => n
  | k + 1 => s.sampleAt n k + (if s.irqAt (s.sampleAt n k) then 2 else 1)

/-- The first `k` samples let a wait for `mask` go on: none shows an error or every awaited bit clear (R145). -/
abbrev State.waitsFor (s : State) (n k : Nat) (mask : Byte) : Prop :=
  ∀ j, j < k → s.cmdErrAt (s.sampleAt n j) = false ∧ s.status2At (s.sampleAt n j) &&& mask ≠ 0

/-- The events of those samples: a status read and `DELAY(10)` each (R145). -/
def State.waitEvents (s : State) (n k settle : Nat) : List Event :=
  (List.range k).flatMap fun j => s.statusEvents (s.sampleAt n j) settle ++ [.delay 10]

/-- What the latches hold after `k` samples (R142). -/
def latchesAfter (s t : State) (n : Nat) : Nat → Prop
  | 0 => statusKept s t
  | k + 1 => t.status1 = s.status1At (s.sampleAt n k) ∧ t.status2 = s.status2At (s.sampleAt n k)

/-- The status read at port call `n` fails: its own frame does, or the clear-interrupt frame that is due after it
(R142). -/
abbrev State.readFails (s : State) (n : Nat) : Prop :=
  (s.answerAt n).ok = false ∨ (s.answerAt n).ok = true ∧ s.irqAt n = true ∧ (s.answerAt (n + 1)).ok = false

/-- The events of such a read (R142). -/
def State.failedReadEvents (s : State) (n : Nat) : List Event :=
  if (s.answerAt n).ok then
    [s.xferAt n (rd3Frame s.params 0x05), .xferFail ((cmdFrame s.params 0x04).map bitrev8)]
  else [.xferFail ((rd3Frame s.params 0x05).map bitrev8)]

/-- Sample `k` ends the wait, by an error or by every awaited bit clear; no port call fails (R145). -/
abbrev State.waitEnds (s : State) (n k : Nat) (mask : Byte) : Prop :=
  s.portsOk (s.sampleAt n (k + 1)) ∧ s.waitsFor n k mask
    ∧ (s.cmdErrAt (s.sampleAt n k) = true ∨ s.status2At (s.sampleAt n k) &&& mask = 0)

/-- The read of sample `k` fails, and no port call before it (R145). -/
abbrev State.waitBreaks (s : State) (n k : Nat) (mask : Byte) : Prop :=
  s.portsOk (s.sampleAt n k) ∧ s.waitsFor n k mask ∧ s.readFails (s.sampleAt n k)

/-- `k` samples, all that the timeout allows, end no wait; no port call fails (R146). -/
abbrev State.waitExpires (s : State) (n k : Nat) (mask : Byte) : Prop :=
  s.portsOk (s.sampleAt n k) ∧ s.waitsFor n k mask

/-- The result of a wait that a sample with that command-error bit ends (R145). -/
def sampleResult (cmdErr : Bool) : ErrCode := if cmdErr then .chipReportedError else .ok

/-- INIT can start, every port call returns, and the post-check table is the one that R200 prints (R252). -/
abbrev State.canInit (s : State) : Prop :=
  s.seq = .idle ∧ s.initialized = false ∧ s.bindingsOk = true ∧ s.params.valid = true ∧ s.hang = none
    ∧ s.params.postCheck = PostChecks.printed

/-- The events of steps 2 to 4 of INIT: both ports opened, the reset pulse (R252). -/
def openEvents : List Event :=
  [.phyInit true, .gpioInit true, .gpioWrite true true, .delay 1, .gpioWrite false true, .delay 1]

/-- Those, and the power-up frame of step 5 with its settle delay (R252). -/
def State.powerUpEvents (s : State) : List Event :=
  openEvents ++ [s.xferAt 4 (cmdFrame s.params 0x01), .delay 100]

/-- INIT raised `e` after the events `done`, and then called `RELEASE()`, whose two calls are `n` and `n + 1` and
whose answers change no result (R252, D31). -/
def initRaises (s t : State) (e : ErrCode) (done : List Event) (n : Nat) : Prop :=
  endedWith t e ∧ instanceKept s t ∧ t.apcTmp = s.apcTmp
    ∧ t.trace = s.trace ++ done ++ [.phyDeinit (s.answerAt n).ok, .gpioDeinit (s.answerAt (n + 1)).ok]

/-- What DEINIT has done at `t`, after a power-down step of `n` port calls whose events are `powerDown`: both ports
closed, PHY first, and `INITIALIZED` cleared; or `CommunicationFailure` at the close that failed (R254). -/
def deinitCloses (s t : State) (n : Nat) (powerDown : List Event) : Prop :=
  (t.chipVariant = s.chipVariant ∧ t.endAddress = s.endAddress ∧ t.volSrc = s.volSrc
    ∧ t.interruptDone = s.interruptDone ∧ instanceKept s t ∧ t.timeoutCnt = s.timeoutCnt
    ∧ t.apcTmp = s.apcTmp)
  ∧ ((s.answerAt n).ok = true → (s.answerAt (n + 1)).ok = true →
      endedWith t .ok ∧ t.initialized = false
        ∧ t.trace = s.trace ++ powerDown ++ [.phyDeinit true, .gpioDeinit true])
  ∧ ((s.answerAt n).ok = true → (s.answerAt (n + 1)).ok = false →
      endedWith t .communicationFailure ∧ t.initialized = true
        ∧ t.trace = s.trace ++ powerDown ++ [.phyDeinit true, .gpioDeinit false])
  ∧ ((s.answerAt n).ok = false →
      endedWith t .communicationFailure ∧ t.initialized = true
        ∧ t.trace = s.trace ++ powerDown ++ [.phyDeinit false])

/-- The wire bytes an event of the trace handed to the PHY. -/
def Event.sent : Event → Option (List Byte)
  | .xfer wtx _ => some wtx
  | .xferFail wtx => some wtx
  | .delay _ | .event _ | .phyInit _ | .phyDeinit _ | .gpioInit _ | .gpioDeinit _
  | .gpioWrite _ _ => none

/-- How many events of a trace hand the wire bytes `w` to the PHY. -/
def sentCount (w : List Byte) (es : List Event) : Nat := (es.filter fun e => e.sent = some w).length

/-! ## Operations by kind -/

/-- The operations that `REQUIRE_INIT()` gates (R276). -/
def HostOp.isGated : HostOp → Bool
  | .setType _ | .getType | .init | .getIntDone | .clrIntDone => false
  | .deinit | .powerUp | .powerDown | .stop | .reset | .clearInterrupt | .next | .checkMemory
  | .readPlayPointer | .readRecordPointer | .readDeviceId | .writeNvConfig | .loadNvConfig
  | .toggleExtClock | .getStatus | .pollWait _ _ _ | .irqHandler | .readApc | .writeApc _
  | .setVolume _ | .getVolume | .setMonitorInput _ | .getMonitorInput | .setMixInput _ | .getMixInput
  | .setSeEditing _ | .getSeEditing | .setSpiFt _ | .getSpiFt | .setAnalogOutput _
  | .getAnalogOutput | .setPwmSpeaker _ | .getPwmSpeaker | .setPuAnalogOutput _
  | .getPuAnalogOutput | .setVoltageAlert _ | .getVoltageAlert | .setEomStop _ | .getEomStop
  | .setVolumeControl _ | .getVolumeControl | .setPlayRange _ _ | .setRecordRange _ _
  | .setEraseRange _ _ | .play | .record | .erase | .globalErase => true

/-- The setter of an APC field, with its operand as a field value (R166, R170 to R187). -/
def setterOf (f : ApcField) (v : Word12) : HostOp :=
  match f with
  | .volume => .setVolume (v.setWidth 8)
  | .monitorInput => .setMonitorInput (v == 1)
  | .mixInput => .setMixInput (v == 1)
  | .seEditing => .setSeEditing (v == 1)
  | .spiFt => .setSpiFt (v == 1)
  | .analogOutput => .setAnalogOutput (v.setWidth 1)
  | .pwmSpeaker => .setPwmSpeaker (v == 1)
  | .puAnalogOutput => .setPuAnalogOutput (v == 1)
  | .voltageAlert => .setVoltageAlert (v == 1)
  | .eomStop => .setEomStop (v == 1)

/-- The getter of an APC field (R169, R171 to R188). -/
def getterOf : ApcField → HostOp
  | .volume => .getVolume
  | .monitorInput => .getMonitorInput
  | .mixInput => .getMixInput
  | .seEditing => .getSeEditing
  | .spiFt => .getSpiFt
  | .analogOutput => .getAnalogOutput
  | .pwmSpeaker => .getPwmSpeaker
  | .puAnalogOutput => .getPuAnalogOutput
  | .voltageAlert => .getVoltageAlert
  | .eomStop => .getEomStop

/-- The write-APC opcode of a volume-control source: `0x45 | (VOL_SRC << 5)` (R22, R162). -/
def writeOpcode (src : VolSrc) : Byte := 0x45#8 ||| (src.code.setWidth 8 <<< 5)

/-! ## The sequencer -/

/-- The transitions of `SEQ` (R290). `CommandIssued` to `TimedOut` is INIT "ending in the same terminal state"
after its `RELEASE()`. -/
def seqStep : SeqState → SeqState → Bool
  | .idle, .commandIssued => true
  | .commandIssued, .polling => true
  | .polling, .polling => true
  | .polling, .commandIssued => true
  | .polling, .completed => true
  | .polling, .timedOut => true
  | .polling, .commandError => true
  | .commandIssued, .commandError => true
  | .commandIssued, .timedOut => true
  | .commandIssued, .completed => true
  | .commandError, .commandIssued => true
  | .timedOut, .commandIssued => true
  | .completed, .idle => true
  | .timedOut, .idle => true
  | .commandError, .idle => true
  | _, _ => false

/-- Every two neighbours of a path are a transition of R290. -/
def seqPathLegal : List SeqState → Bool
  | a :: b :: rest => seqStep a b && seqPathLegal (b :: rest)
  | _ => true

/-! ## Invariants -/

/-- The ten end addresses (R66). -/
def endAddresses : List Addr :=
  [0x0FF, 0x14F, 0x19F, 0x1EF, 0x2DF, 0x3CF, 0x4BF, 0x5AF, 0x69F, 0x78F]

/-- The invariant of the engine between operations: the sequencer is idle, has only made transitions of R290,
an initialized engine has an end address of the table (R21, R258), and the timeout counter is a number of `TW`
bits (R31). -/
abbrev State.Inv (s : State) : Prop :=
  s.seq = .idle ∧ s.seqLog.getLast? = some .idle ∧ seqPathLegal s.seqLog = true
    ∧ (s.initialized = true → s.endAddress ∈ endAddresses)
    ∧ s.timeoutCnt < 2 ^ s.params.tw

/-- Every frame the engine handed to the PHY is the bit-reversed frame of one of the 24 commands (R92, R127). -/
def State.wireDisciplined (s : State) : Prop :=
  ∀ e ∈ s.trace, ∀ w, e.sent = some w → ∃ i : Instr, w = (encodeWith s.params i).map bitrev8

/-- After every event of `es` that `opened` picks, an event follows that `closed` picks (R258). -/
def closedAfter (opened closed : Event → Bool) (es : List Event) : Prop :=
  ∀ before e after, es = before ++ e :: after → opened e = true → ∃ c ∈ after, closed c = true

/-- A `PhyDeinit` event, whatever its success bit. -/
def Event.isPhyClose : Event → Bool
  | .phyDeinit _ => true
  | .xfer _ _ | .xferFail _ | .delay _ | .event _ | .phyInit _ | .gpioInit _ | .gpioDeinit _
  | .gpioWrite _ _ => false

/-- A `GpioDeinit` event, whatever its success bit. -/
def Event.isGpioClose : Event → Bool
  | .gpioDeinit _ => true
  | .xfer _ _ | .xferFail _ | .delay _ | .event _ | .phyInit _ | .gpioInit _ | .phyDeinit _
  | .gpioWrite _ _ => false

end Sys2Proof.Machine
end

