-- ==== Sys2Proof/Certificates/Slice0/Obligations.lean ====
section
/-! DEFINITION. The statements for the provers. A port call that answers is numbered from 0 at the start of the
operation: `s.answerAt k`, `s.rxAt k i`, `s.xferAt k frame` speak of the `k`-th. The engine has no memory
(20_memory.md R60), so a frame says what happens to its registers and its trace. `s.asPrinted`, and the premise
`s.params.postCheck = PostChecks.printed`, take the instance with the table of R200 as printed: "A model should take
the table as a configuration value and may prove theorems for this instantiation only". -/

open Sys2Proof Sys2Proof.Machine

/-! ## Encoding -/

/-- R90: the opcode and its wire image, row by row. -/
def Obligations.OpcodeCatalogueIsExact : Prop :=
  ∀ (w : Word12) (a b : Addr), ∀ row ∈
    [(Instr.pu, (0x01 : Byte), (0x80 : Byte)), (.stop, 0x02, 0x40), (.reset, 0x03, 0xC0),
     (.clrInt, 0x04, 0x20), (.rdStatus, 0x05, 0xA0), (.rdPlayPtr, 0x06, 0x60), (.pd, 0x07, 0xE0),
     (.rdRecPtr, 0x08, 0x10), (.rdDevid, 0x09, 0x90), (.play, 0x40, 0x02), (.record, 0x41, 0x82),
     (.erase, 0x42, 0x42), (.gErase, 0x43, 0xC2), (.rdApc, 0x44, 0x22), (.wrApcBtn w, 0x45, 0xA2),
     (.wrApcReg w, 0x65, 0xA6), (.wrNvcfg, 0x46, 0x62), (.ldNvcfg, 0x47, 0xE2), (.fwd, 0x48, 0x12),
     (.chkMem, 0x49, 0x92), (.extclk, 0x4A, 0x52), (.setPlay a b, 0x80, 0x01), (.setRec a b, 0x81, 0x81),
     (.setErase a b, 0x82, 0x41)],
    (encode row.1).head? = some row.2.1 ∧ ((encode row.1).map bitrev8).head? = some row.2.2

/-- R120: `r[i] = b[7-i]`, the closed form, the sixteen palindromes, the example. -/
def Obligations.BitReversalMirrorsEachBit : Prop :=
  (∀ (b : Byte) (i : Nat), i < 8 → (bitrev8 b).getLsbD i = b.getLsbD (7 - i))
    ∧ (∀ b : Byte, bitrev8 b = (b &&& 0x01) <<< 7 ||| (b &&& 0x02) <<< 5 ||| (b &&& 0x04) <<< 3
        ||| (b &&& 0x08) <<< 1 ||| (b &&& 0x10) >>> 1 ||| (b &&& 0x20) >>> 3 ||| (b &&& 0x40) >>> 5
        ||| (b &&& 0x80) >>> 7)
    ∧ (∀ b : Byte, bitrev8 b = b ↔ b ∈ ([0x00, 0x18, 0x24, 0x3C, 0x42, 0x5A, 0x66, 0x7E, 0x81, 0x99, 0xA5,
        0xBD, 0xC3, 0xDB, 0xE7, 0xFF] : List Byte))
    ∧ bitrev8 0x05 = 0xA0

/-- R121. -/
def Obligations.BitReversalIsAnInvolution : Prop :=
  (∀ b : Byte, bitrev8 (bitrev8 b) = b)
    ∧ (∀ a b : Byte, bitrev8 a = bitrev8 b → a = b)
    ∧ (∀ a b : Byte, bitrev8 (a ||| b) = bitrev8 a ||| bitrev8 b)
    ∧ (∀ (a : Byte) (n : Nat), bitrev8 (a >>> n) = bitrev8 a <<< n)

/-- Decode and encode agree on every instruction whose operands its frame carries whole. -/
def Obligations.DecodeOfEncodeIsTheInstruction : Prop :=
  ∀ i : Instr, i.wellFormed = true → decode (encode i) = .ok i

/-- Every list of bytes that decodes is the encoding of what it decodes to: no two frames mean one
instruction. That the decoder checks length and padding is the model's reading (assumption 15). -/
def Obligations.DecodedBytesAreTheEncoding : Prop :=
  ∀ (bytes : List Byte) (i : Instr), decode bytes = .ok i → encode i = bytes ∧ i.wellFormed = true

/-- R92: the 232 bytes outside the catalogue are no command, whatever follows, and no frame of any instance
begins with one. -/
def Obligations.OtherOpcodesAreNotCommands : Prop :=
  (∀ (op : Byte) (rest : List Byte), op ∉ ([0x01, 0x02, 0x03, 0x04, 0x05, 0x06, 0x07, 0x08, 0x09, 0x40, 0x41,
      0x42, 0x43, 0x44, 0x45, 0x65, 0x46, 0x47, 0x48, 0x49, 0x4A, 0x80, 0x81, 0x82] : List Byte) →
    decode (op :: rest) = .error (.notACommand op))
  ∧ ∀ (p : Params) (i : Instr), ∃ op rest, encodeWith p i = op :: rest
      ∧ op ∈ ([0x01, 0x02, 0x03, 0x04, 0x05, 0x06, 0x07, 0x08, 0x09, 0x40, 0x41,
      0x42, 0x43, 0x44, 0x45, 0x65, 0x46, 0x47, 0x48, 0x49, 0x4A, 0x80, 0x81, 0x82] : List Byte)

/-- A few words written out from the rows' patterns decode to their instructions. -/
def Obligations.SampleWordsDecode : Prop :=
  decodeTableWord 16 0x0001 = some .pu ∧ decodeTableWord 24 0x000005 = some .rdStatus
    ∧ decodeTableWord 32 0x00000044 = some .rdApc
    ∧ decodeTableWord 24 0x044365 = some (.wrApcReg 0x443)
    ∧ decodeTableWord 56 0x00078F02340081 = some (.setRec 0x234 0x78F)

/-- R81, R86, R87: the transmitted bytes of each format, for every instance; at the least `L_RNG`, 5, a range frame
has no padding byte, which is the model's reading (assumption 16). -/
def Obligations.FrameLayoutsFollowTheirFormat : Prop :=
  ∀ p : Params, p.valid = true →
    (∀ row ∈ [(Instr.pu, (0x01 : Byte)), (.stop, 0x02), (.reset, 0x03), (.clrInt, 0x04), (.pd, 0x07),
        (.play, 0x40), (.record, 0x41), (.erase, 0x42), (.gErase, 0x43), (.wrNvcfg, 0x46), (.ldNvcfg, 0x47),
        (.fwd, 0x48), (.chkMem, 0x49), (.extclk, 0x4A)], encodeWith p row.1 = cmdFrame p row.2)
    ∧ encodeWith p .rdStatus = rd3Frame p 0x05 ∧ encodeWith p .rdDevid = rd3Frame p 0x09
    ∧ encodeWith p .rdPlayPtr = rd4Frame p 0x06 ∧ encodeWith p .rdRecPtr = rd4Frame p 0x08
    ∧ encodeWith p .rdApc = rd4Frame p 0x44
    ∧ (∀ w, encodeWith p (.wrApcBtn w) = wr3Frame 0x45 w ∧ encodeWith p (.wrApcReg w) = wr3Frame 0x65 w)
    ∧ (∀ a b, encodeWith p (.setPlay a b) = rngFrame p 0x80 a b
        ∧ encodeWith p (.setRec a b) = rngFrame p 0x81 a b
        ∧ encodeWith p (.setErase a b) = rngFrame p 0x82 a b)

/-! ## The step -/

/-- A step runs the decoded instruction: the request is taken off the host's list and `exec` runs on the rest. That
a row is requested by its frame's bytes is the model's form (assumption 9). -/
def Obligations.StepRunsTheDecodedInstruction : Prop :=
  ∀ (s : State) (bytes : List Byte) (rest : List Input) (i : Instr),
    s.seq = .idle → s.inputs = .frame bytes :: rest → decode bytes = .ok i →
    step s = exec i { s with inputs := rest }

/-- A step runs the requested host operation; and the outside event that changes the straps writes the two straps
and nothing else (R9, R25). That a change of the straps is an event of the step, between operations, is the model's
form (assumption 5). -/
def Obligations.StepRunsTheRequestedOperation : Prop :=
  (∀ (s : State) (o : HostOp) (rest : List Input),
    s.seq = .idle → s.inputs = .op o :: rest → step s = execHost o { s with inputs := rest })
  ∧ ∀ (s : State) (bindings callback : Bool) (rest : List Input),
    s.seq = .idle → s.inputs = .straps bindings callback :: rest →
    step s = .next { s with inputs := rest, bindingsOk := bindings, eventCbPresent := callback }

/-- Bytes that are no command's frame select no operation: nothing but the host's list changes. R101 says it of a
selector outside R100; that a frame's bytes may select is the model's form (assumptions 9, 14, 15). -/
def Obligations.UnknownSelectorChangesNothing : Prop :=
  ∀ (s : State) (bytes : List Byte) (rest : List Input) (e : FrameReject),
    s.seq = .idle → s.inputs = .frame bytes :: rest → decode bytes = .error e →
    step s = .next { s with inputs := rest }

/-- R310 to R312: the reset values that the table states, at `State.reset` and after an engine reset anywhere, which
leaves the straps and the trace, and after which nothing happens until the host requests an operation; and a step
at an engine reset is that reset. Registers that R311 gives no value are left out (assumption 6); that a reset is an
event of the step, between operations, and keeps the host's requests, is the model's form (assumption 20). -/
def Obligations.ResetValuesAreTheTable : Prop :=
  (∀ s : State,
    (∀ t ∈ [s.engineReset, State.reset],
      t.chipVariant = 0 ∧ t.endAddress = 0x0000 ∧ t.volSrc = .button ∧ t.initialized = false
        ∧ t.interruptDone = false ∧ t.seq = .idle ∧ t.timeoutCnt = 0 ∧ t.flen = 0 ∧ t.result = .ok
        ∧ (t.inputs = [] → step t = .next t))
    ∧ s.engineReset.bindingsOk = s.bindingsOk ∧ s.engineReset.eventCbPresent = s.eventCbPresent
    ∧ s.engineReset.trace = s.trace ∧ s.engineReset.inputs = s.inputs)
  ∧ ∀ (s : State) (rest : List Input), s.seq = .idle → s.inputs = .engineReset :: rest →
    step s = .next ({ s with inputs := rest } : State).engineReset

/-- 93 U1, U3: a request at a busy engine, and INIT at an initialized one, have no transition; that they are
refused by name is the model's form (assumptions 12, 13). -/
def Obligations.RequestsWithoutAMeaningAreRefused : Prop :=
  (∀ s : State, s.seq ≠ .idle →
    (∀ i : Instr, exec i s = .refused .requestWhileBusy)
      ∧ ∀ o : HostOp, execHost o s = .refused .requestWhileBusy)
  ∧ ∀ s : State, s.seq = .idle → s.initialized = true →
    execHost .init s = .refused .initWhileInitialized

/-! ## The transceiver, delays, ports -/

/-- R122, for a frame of 1 to 7 bytes and a port call that returns: every byte is reversed on the way out and in,
`TXBUF` and `RXBUF` are written below the length only, success appends one `Xfer`, failure appends one
`XferFail`, raises, and leaves `RXBUF`. -/
def Obligations.ExchangeFollowsItsPseudocode : Prop :=
  ∀ (s : State) (tx : List Byte), 1 ≤ tx.length → tx.length ≤ 7 → s.hang = none →
    ((s.answerAt 0).ok = true → ∃ t, xfer tx s = .ok t
      ∧ t.flen.toNat = tx.length
      ∧ (∀ i : Fin 7, t.txbuf[i] = if i.val < tx.length then tx.getD i.val 0 else s.txbuf[i])
      ∧ (∀ i : Fin 7, t.rxbuf[i]
          = if i.val < tx.length then bitrev8 (s.answerAt 0).rx[i] else s.rxbuf[i])
      ∧ t.trace = s.trace ++ [.xfer (tx.map bitrev8) ((s.answerAt 0).rx.toList.take tx.length)]
      ∧ commandFrame s t ∧ t.seq = s.seq ∧ t.result = s.result ∧ t.rdata = s.rdata)
    ∧ ((s.answerAt 0).ok = false → ∃ t, xfer tx s = .err .communicationFailure t
      ∧ t.flen.toNat = tx.length
      ∧ (∀ i : Fin 7, t.txbuf[i] = if i.val < tx.length then tx.getD i.val 0 else s.txbuf[i])
      ∧ t.rxbuf = s.rxbuf
      ∧ t.trace = s.trace ++ [.xferFail (tx.map bitrev8)]
      ∧ commandFrame s t ∧ t.seq = s.seq ∧ t.result = s.result ∧ t.rdata = s.rdata)

/-- R125: `DELAY(0)` does nothing; any other delay adds one event and writes no state. -/
def Obligations.DelayAddsOneEventUnlessZero : Prop :=
  ∀ (s : State) (ms : Nat), s.hang = none →
    delay ms s = .ok { s with trace := s.trace ++ delayEvents ms }

/-- 93 U9: when the first port call never returns, every command with legal operands is stuck; the field that says
which call hangs is the model's (assumption 4). -/
def Obligations.HungPortIsStuck : Prop :=
  ∀ (s : State) (i : Instr), s.seq = .idle → s.initialized = true → s.hang = some 0 →
    (∀ a b, i = .setPlay a b ∨ i = .setRec a b ∨ i = .setErase a b →
      rangeLegal a b s.endAddress = true) →
    exec i s = .fault .portNeverReturns

/-! ## Results of the table's rows -/

/-- R240 (PLAY, RECORD, ERASE, GLOBAL_ERASE): the command frame, `Delay(500)`, no status read; a failed frame is
`CommunicationFailure` with no delay; a not initialized engine does nothing. As R200 lets it, for the table that
R200 prints. -/
def Obligations.ExecuteCommandsIssueAndSettle : Prop :=
  ∀ row ∈ [(Instr.play, (0x40 : Byte)), (.record, 0x41), (.erase, 0x42), (.gErase, 0x43)],
  ∀ s : State,
    (s.asPrinted → (s.answerAt 0).ok = true → ∃ t, exec row.1 s = .next t ∧ endedWith t .ok ∧ commandFrame s t
      ∧ t.trace = s.trace ++ [s.xferAt 0 (cmdFrame s.params row.2), .delay 500])
    ∧ (s.asPrinted → (s.answerAt 0).ok = false → ∃ t, exec row.1 s = .next t
      ∧ endedWith t .communicationFailure ∧ commandFrame s t
      ∧ t.trace = s.trace ++ [.xferFail ((cmdFrame s.params row.2).map bitrev8)])
    ∧ (s.seq = .idle → s.initialized = false →
      ∃ t, exec row.1 s = .next t ∧ endedWith t .notInitialized ∧ nothingDone s t)

/-- R211 to R213 (WRITE_NV_CONFIG, LOAD_NV_CONFIG, TOGGLE_EXT_CLOCK): one bare frame, no delay, no status read.
R200 at every instance, for every row but GET_STATUS, which has no post-check, and READ_APC, which also writes
`APC_TMP`: a row whose post-check is nothing sends its frame alone, and one whose post-check is a delay sends its
frame and settles. For the rows WR_APC_BTN and WR_APC_REG that clause is the model's: they run as gated operations
(assumption 10) and take the entry of WRITE_APC (assumption 24). -/
def Obligations.OpcodeOnlyCommandsSendOneFrame : Prop :=
  (∀ row ∈ [(Instr.wrNvcfg, (0x46 : Byte)), (.ldNvcfg, 0x47), (.extclk, 0x4A)],
    ∀ s : State, s.asPrinted → (s.answerAt 0).ok = true →
      ∃ t, exec row.1 s = .next t ∧ endedWith t .ok ∧ commandFrame s t
        ∧ t.trace = s.trace ++ [s.xferAt 0 (cmdFrame s.params row.2)])
  ∧ ∀ (s : State) (i : Instr), i ≠ .rdStatus → i ≠ .rdApc → s.ready → s.accepts i →
    (s.answerAt 0).ok = true →
    (postCheckOf s.params i = .nothing →
      ∃ t, exec i s = .next t ∧ endedWith t .ok ∧ commandFrame s t
        ∧ t.trace = s.trace ++ [s.xferAt 0 (encodeWith s.params i)])
    ∧ ∀ wait : Nat, postCheckOf s.params i = .settle wait →
      ∃ t, exec i s = .next t ∧ endedWith t .ok ∧ commandFrame s t
        ∧ t.trace = s.trace ++ s.xferAt 0 (encodeWith s.params i) :: delayEvents wait

/-- R204 (the chip's RESET command): the frame and `Delay(100)`; no status read, no handle register written; a
failed frame is `CommunicationFailure`; a not initialized engine does nothing. -/
def Obligations.ChipResetSettlesWithoutPolling : Prop :=
  ∀ s : State,
    (s.asPrinted → (s.answerAt 0).ok = true →
      ∃ t, exec .reset s = .next t ∧ endedWith t .ok ∧ commandFrame s t
        ∧ t.trace = s.trace ++ [s.xferAt 0 (cmdFrame s.params 0x03), .delay 100])
    ∧ (s.asPrinted → (s.answerAt 0).ok = false →
      ∃ t, exec .reset s = .next t ∧ endedWith t .communicationFailure ∧ commandFrame s t
        ∧ t.trace = s.trace ++ [.xferFail ((cmdFrame s.params 0x03).map bitrev8)])
    ∧ (s.seq = .idle → s.initialized = false →
      ∃ t, exec .reset s = .next t ∧ endedWith t .notInitialized ∧ nothingDone s t)

/-- R202, R203, R205 to R207 (POWER_DOWN, STOP, CLEAR_INTERRUPT, NEXT, CHECK_MEMORY): the command frame and one
status read, whose command-error bit alone decides the result. R200 at every instance: so does every row but
GET_STATUS and READ_APC whose post-check is an error check, with the check's settle delay; and a status read that
fails ends in `CommunicationFailure`, the latches holding what was read. For the rows WR_APC_BTN and WR_APC_REG that
clause is the model's: they run as gated operations (assumption 10) and take the entry of WRITE_APC (assumption
24). -/
def Obligations.CheckedCommandsReadStatusOnce : Prop :=
  (∀ row ∈ [(Instr.pd, (0x07 : Byte)), (.stop, 0x02), (.clrInt, 0x04), (.fwd, 0x48), (.chkMem, 0x49)],
    ∀ s : State, s.asPrinted → s.portsOk 2 → (s.irqAt 1 = true → (s.answerAt 2).ok = true) →
      ∃ t, exec row.1 s = .next t
        ∧ (s.cmdErrAt 1 = false → endedWith t .ok)
        ∧ (s.cmdErrAt 1 = true → endedWith t .chipReportedError)
        ∧ t.trace = s.trace ++ s.xferAt 0 (cmdFrame s.params row.2) :: s.statusEvents 1 0
        ∧ t.status1 = s.status1At 1 ∧ t.status2 = s.status2At 1
        ∧ handleKept s t ∧ instanceKept s t ∧ t.timeoutCnt = s.timeoutCnt ∧ t.apcTmp = s.apcTmp)
  ∧ ∀ (s : State) (i : Instr) (wait : Nat), i ≠ .rdStatus → i ≠ .rdApc → s.ready → s.accepts i →
    postCheckOf s.params i = .errorCheck wait →
    (s.portsOk 2 → (s.irqAt 1 = true → (s.answerAt 2).ok = true) →
      ∃ t, exec i s = .next t
        ∧ (s.cmdErrAt 1 = false → endedWith t .ok)
        ∧ (s.cmdErrAt 1 = true → endedWith t .chipReportedError)
        ∧ t.trace = s.trace ++ s.xferAt 0 (encodeWith s.params i) :: delayEvents wait
            ++ s.statusEvents 1 wait
        ∧ t.status1 = s.status1At 1 ∧ t.status2 = s.status2At 1
        ∧ handleKept s t ∧ instanceKept s t ∧ t.timeoutCnt = s.timeoutCnt ∧ t.apcTmp = s.apcTmp)
    ∧ ((s.answerAt 0).ok = true → s.readFails 1 →
      ∃ t, exec i s = .next t ∧ endedWith t .communicationFailure
        ∧ t.trace = s.trace ++ s.xferAt 0 (encodeWith s.params i) :: delayEvents wait ++ s.failedReadEvents 1
        ∧ ((s.answerAt 1).ok = true → t.status1 = s.status1At 1 ∧ t.status2 = s.status2At 1)
        ∧ ((s.answerAt 1).ok = false → statusKept s t)
        ∧ handleKept s t ∧ instanceKept s t ∧ t.timeoutCnt = s.timeoutCnt ∧ t.apcTmp = s.apcTmp)

/-- R201 (POWER_UP): the frame, `Delay(100)`, and status reads 10 ms apart, up to 100, each with its clear-interrupt
frame if it shows EOM or INT. The sample after `k` that keep the wait going ends it: with `ChipReportedError` if the
command-error bit is set, else with `Ok` if the awaited bit is clear, the counter `k` below 100; a read that fails
ends it in `CommunicationFailure`; 100 samples that keep it going end in `Timeout`. R200 at every instance: so does
every row but GET_STATUS and READ_APC whose post-check is a poll, with its mask, timeout (below 10 ms: no status
read) and settle delay. For the rows WR_APC_BTN and WR_APC_REG that clause is the model's: they run as gated
operations (assumption 10) and take the entry of WRITE_APC (assumption 24). -/
def Obligations.PowerUpEndsOnAClearReadyBit : Prop :=
  (∀ s : State, s.asPrinted →
    (∀ k, k < 100 → s.waitEnds 1 k (s2Mask s.params .rdy) →
      ∃ t, exec .pu s = .next t ∧ endedWith t (sampleResult (s.cmdErrAt (s.sampleAt 1 k)))
        ∧ t.trace = s.trace ++ [s.xferAt 0 (cmdFrame s.params 0x01), .delay 100] ++ s.waitEvents 1 k 100
            ++ s.statusEvents (s.sampleAt 1 k) 100
        ∧ latchesAfter s t 1 (k + 1) ∧ t.timeoutCnt = 100 - k
        ∧ handleKept s t ∧ instanceKept s t ∧ t.apcTmp = s.apcTmp)
    ∧ (∀ k, k < 100 → s.waitBreaks 1 k (s2Mask s.params .rdy) →
      ∃ t, exec .pu s = .next t ∧ endedWith t .communicationFailure
        ∧ t.trace = s.trace ++ [s.xferAt 0 (cmdFrame s.params 0x01), .delay 100] ++ s.waitEvents 1 k 100
            ++ s.failedReadEvents (s.sampleAt 1 k)
        ∧ latchesAfter s t 1 (if (s.answerAt (s.sampleAt 1 k)).ok then k + 1 else k)
        ∧ t.timeoutCnt = 100 - k ∧ handleKept s t ∧ instanceKept s t ∧ t.apcTmp = s.apcTmp)
    ∧ (s.waitExpires 1 100 (s2Mask s.params .rdy) →
      ∃ t, exec .pu s = .next t ∧ endedWith t .timeout
        ∧ t.trace = s.trace ++ [s.xferAt 0 (cmdFrame s.params 0x01), .delay 100] ++ s.waitEvents 1 100 100
        ∧ latchesAfter s t 1 100 ∧ t.timeoutCnt = 0
        ∧ handleKept s t ∧ instanceKept s t ∧ t.apcTmp = s.apcTmp))
  ∧ ∀ (s : State) (i : Instr) (mask : PollMask) (timeout wait : Nat), i ≠ .rdStatus → i ≠ .rdApc →
    s.ready → s.accepts i → postCheckOf s.params i = .poll mask timeout wait →
    (∀ k, k < timeout / 10 → s.waitEnds 1 k (pollByte s.params mask) →
      ∃ t, exec i s = .next t ∧ endedWith t (sampleResult (s.cmdErrAt (s.sampleAt 1 k)))
        ∧ t.trace = s.trace ++ s.xferAt 0 (encodeWith s.params i) :: delayEvents wait ++ s.waitEvents 1 k wait
            ++ s.statusEvents (s.sampleAt 1 k) wait
        ∧ latchesAfter s t 1 (k + 1) ∧ t.timeoutCnt = timeout / 10 - k
        ∧ handleKept s t ∧ instanceKept s t ∧ t.apcTmp = s.apcTmp)
    ∧ (∀ k, k < timeout / 10 → s.waitBreaks 1 k (pollByte s.params mask) →
      ∃ t, exec i s = .next t ∧ endedWith t .communicationFailure
        ∧ t.trace = s.trace ++ s.xferAt 0 (encodeWith s.params i) :: delayEvents wait ++ s.waitEvents 1 k wait
            ++ s.failedReadEvents (s.sampleAt 1 k)
        ∧ latchesAfter s t 1 (if (s.answerAt (s.sampleAt 1 k)).ok then k + 1 else k)
        ∧ t.timeoutCnt = timeout / 10 - k ∧ handleKept s t ∧ instanceKept s t ∧ t.apcTmp = s.apcTmp)
    ∧ (s.waitExpires 1 (timeout / 10) (pollByte s.params mask) →
      ∃ t, exec i s = .next t ∧ endedWith t .timeout
        ∧ t.trace = s.trace ++ s.xferAt 0 (encodeWith s.params i) :: delayEvents wait
            ++ s.waitEvents 1 (timeout / 10) wait
        ∧ latchesAfter s t 1 (timeout / 10) ∧ t.timeoutCnt = 0
        ∧ handleKept s t ∧ instanceKept s t ∧ t.apcTmp = s.apcTmp)

/-- R208, R209 (pointer reads): the 11-bit pointer of received bytes 2 and 3. That at an instance with another table
the pointer is its own frame's, whatever the post-check exchanges after it, is the model's choice (assumption 24). -/
def Obligations.PointerReadsDeliverElevenBits : Prop :=
  ∀ row ∈ [(Instr.rdPlayPtr, (0x06 : Byte)), (.rdRecPtr, 0x08)],
  ∀ s : State, s.ready → (s.answerAt 0).ok = true →
    (s.params.postCheck = PostChecks.printed →
      ∃ t, exec row.1 s = .next t ∧ endedWith t .ok ∧ commandFrame s t
        ∧ t.rdata.toNat = (s.rxAt 0 3).toNat % 8 * 256 + (s.rxAt 0 2).toNat
        ∧ t.trace = s.trace ++ [s.xferAt 0 (rd4Frame s.params row.2)])
    ∧ ∀ t, exec row.1 s = .next t → t.result = .ok →
      t.rdata.toNat = (s.rxAt 0 3).toNat % 8 * 256 + (s.rxAt 0 2).toNat

/-- R210 (READ_DEVICE_ID): bits 7:3 of received byte 2. That at an instance with another table the id is its own
frame's, whatever the post-check exchanges after it, is the model's choice (assumption 24). -/
def Obligations.DeviceIdIsTheUpperFiveBits : Prop :=
  ∀ s : State, s.ready → (s.answerAt 0).ok = true →
    (s.params.postCheck = PostChecks.printed →
      ∃ t, exec .rdDevid s = .next t ∧ endedWith t .ok ∧ commandFrame s t
        ∧ t.rdata.toNat = (s.rxAt 0 2).toNat / 8
        ∧ t.trace = s.trace ++ [s.xferAt 0 (rd3Frame s.params 0x09)])
    ∧ ∀ t, exec .rdDevid s = .next t → t.result = .ok → t.rdata.toNat = (s.rxAt 0 2).toNat / 8

/-- R239: a range setter whose operands pass the check sends one F-RNG frame and settles 500 ms; a failed frame
has no delay; operands that fail it are `InvalidArgument`, after the gate, with an empty trace. At an instance with
`L_RNG` of 5 the layout of the frame is the model's choice (assumption 16). -/
def Obligations.RangeSettersSendALegalRange : Prop :=
  ∀ (s : State) (a b : Addr),
  ∀ row ∈ [(Instr.setPlay a b, (0x80 : Byte)), (.setRec a b, 0x81), (.setErase a b, 0x82)],
    (s.asPrinted → a.toNat < b.toNat → b.toNat ≤ s.endAddress.toNat →
      ((s.answerAt 0).ok = true → ∃ t, exec row.1 s = .next t ∧ endedWith t .ok ∧ commandFrame s t
        ∧ t.trace = s.trace ++ [s.xferAt 0 (rngFrame s.params row.2 a b), .delay 500])
      ∧ ((s.answerAt 0).ok = false → ∃ t, exec row.1 s = .next t ∧ endedWith t .communicationFailure
        ∧ commandFrame s t
        ∧ t.trace = s.trace ++ [.xferFail ((rngFrame s.params row.2 a b).map bitrev8)]))
    ∧ (s.seq = .idle → s.initialized = true → ¬(a.toNat < b.toNat ∧ b.toNat ≤ s.endAddress.toNat) →
      ∃ t, exec row.1 s = .next t ∧ endedWith t .invalidArgument ∧ nothingDone s t)
    ∧ (s.seq = .idle → s.initialized = false →
      ∃ t, exec row.1 s = .next t ∧ endedWith t .notInitialized ∧ nothingDone s t)

/-- R272: a range that fails `start < end <= END_ADDRESS` on the full operands, and a volume level above 7, end in
`InvalidArgument`, with an empty trace and no state written. -/
def Obligations.InvalidArgumentsSendNothing : Prop :=
  ∀ s : State, s.seq = .idle → s.initialized = true →
    (∀ a b : Addr, ∀ i ∈ [Instr.setPlay a b, .setRec a b, .setErase a b],
      ¬(a.toNat < b.toNat ∧ b.toNat ≤ s.endAddress.toNat) →
      ∃ t, exec i s = .next t ∧ endedWith t .invalidArgument ∧ nothingDone s t)
    ∧ ∀ level : Byte, 7 < level.toNat →
      ∃ t, execHost (.setVolume level) s = .next t ∧ endedWith t .invalidArgument ∧ nothingDone s t

/-- R148 (GET_STATUS): one status read, the whole word returned, the command-error bit too; one clear-interrupt
frame if EOM or INT is set. A status read that fails, by either frame, is `CommunicationFailure`. -/
def Obligations.GetStatusReturnsTheWordItRead : Prop :=
  ∀ s : State, s.ready →
    ((s.answerAt 0).ok = true → (s.irqAt 0 = true → (s.answerAt 1).ok = true) →
      ∃ t, exec .rdStatus s = .next t ∧ endedWith t .ok
        ∧ t.rdata = s.status1At 0 ∧ t.status1 = s.status1At 0 ∧ t.status2 = s.status2At 0
        ∧ t.trace = s.trace ++ s.statusEvents 0 0
        ∧ handleKept s t ∧ instanceKept s t ∧ t.timeoutCnt = s.timeoutCnt ∧ t.apcTmp = s.apcTmp)
    ∧ (s.readFails 0 →
      ∃ t, exec .rdStatus s = .next t ∧ endedWith t .communicationFailure
        ∧ ((s.answerAt 0).ok = true → t.status1 = s.status1At 0 ∧ t.status2 = s.status2At 0)
        ∧ ((s.answerAt 0).ok = false → statusKept s t)
        ∧ t.trace = s.trace ++ s.failedReadEvents 0
        ∧ handleKept s t ∧ instanceKept s t ∧ t.timeoutCnt = s.timeoutCnt ∧ t.apcTmp = s.apcTmp)

/-- R160, R167 (READ_APC): the 12-bit word of received bytes 2 and 3. That at an instance with another table the word
is its own frame's, whatever the post-check exchanges after it, is the model's choice (assumption 24). -/
def Obligations.ReadApcDeliversTwelveBits : Prop :=
  ∀ s : State, s.ready → (s.answerAt 0).ok = true →
    (s.params.postCheck = PostChecks.printed → ∃ t, exec .rdApc s = .next t ∧ endedWith t .ok
      ∧ t.rdata.toNat = (s.rxAt 0 3).toNat % 16 * 256 + (s.rxAt 0 2).toNat
      ∧ t.apcTmp.setWidth 16 = t.rdata
      ∧ t.trace = s.trace ++ [s.xferAt 0 (rd4Frame s.params 0x44)]
      ∧ handleKept s t ∧ statusKept s t ∧ instanceKept s t ∧ t.timeoutCnt = s.timeoutCnt)
    ∧ ∀ t, exec .rdApc s = .next t → t.result = .ok →
      t.rdata.toNat = (s.rxAt 0 3).toNat % 16 * 256 + (s.rxAt 0 2).toNat ∧ t.apcTmp.setWidth 16 = t.rdata

/-- R161: the two APC write rows send the word low byte first, and write no register but the frame buffers. That
a row is run as a gated operation of its own is the model's reading (assumption 10). -/
def Obligations.ApcWriteRowsSendTheWord : Prop :=
  ∀ (s : State) (w : Word12), ∀ row ∈ [(Instr.wrApcBtn w, (0x45 : Byte)), (.wrApcReg w, 0x65)],
    s.asPrinted → (s.answerAt 0).ok = true →
    ∃ t, exec row.1 s = .next t ∧ endedWith t .ok ∧ commandFrame s t
      ∧ t.trace = s.trace ++ [s.xferAt 0 (wr3Frame row.2 w)]

/-! ## The status read and the polling loop -/

/-- R142: `STATUS_READ`. The latches hold what was read; EOM or INT set gives exactly one clear-interrupt frame,
before anything that could end the operation; if that frame fails the latches already hold the new status, and
if the status frame fails they keep the old. -/
def Obligations.StatusReadClearsWhatItSees : Prop :=
  ∀ (s : State) (settle : Nat), s.hang = none → s.params.valid = true →
    ((s.answerAt 0).ok = true → (s.irqAt 0 = true → (s.answerAt 1).ok = true) →
      ∃ t, statusRead settle s = .ok t
      ∧ t.status1 = s.status1At 0 ∧ t.status2 = s.status2At 0
      ∧ t.trace = s.trace ++ s.statusEvents 0 settle
      ∧ handleKept s t ∧ instanceKept s t ∧ t.timeoutCnt = s.timeoutCnt ∧ t.apcTmp = s.apcTmp)
    ∧ ((s.answerAt 0).ok = true → s.irqAt 0 = true → (s.answerAt 1).ok = false →
      ∃ t, statusRead settle s = .err .communicationFailure t
      ∧ t.status1 = s.status1At 0 ∧ t.status2 = s.status2At 0
      ∧ t.trace = s.trace ++ [s.xferAt 0 (rd3Frame s.params 0x05),
          .xferFail ((cmdFrame s.params 0x04).map bitrev8)]
      ∧ handleKept s t ∧ instanceKept s t ∧ t.timeoutCnt = s.timeoutCnt ∧ t.apcTmp = s.apcTmp)
    ∧ ((s.answerAt 0).ok = false → ∃ t, statusRead settle s = .err .communicationFailure t
      ∧ commandFrame s t
      ∧ t.trace = s.trace ++ [.xferFail ((rd3Frame s.params 0x05).map bitrev8)])

/-- R28, R140: the flags are bits of the latches, and the masks of STATUS2 have only their bit set; with the default
positions a received `[0x19, 0x00, 0x05]` has all three STATUS1 flags and the ready and play bits. -/
def Obligations.StatusFlagsAreBitsOfTheLatches : Prop :=
  (∀ s : State, s.latchStatus.status1 = s.rxbuf[1] ++ s.rxbuf[0] ∧ s.latchStatus.status2 = s.rxbuf[2])
  ∧ (∀ s : State, s.cmdErr = s.status1.getLsbD 0 ∧ s.eom = s.status1.getLsbD s.params.s1Eom
      ∧ s.int = s.status1.getLsbD s.params.s1Int ∧ s.ready1 = s.status1.getLsbD s.params.s1Ready
      ∧ s.irqPending = (s.eom || s.int))
  ∧ (∀ (p : Params) (f : S2Flag) (i : Nat), (s2Mask p f).getLsbD i = decide (i = s2Index p f))
  ∧ ∀ s : State, s.params = Params.default →
      s.rxbuf[0] = 0x19 → s.rxbuf[1] = 0x00 → s.rxbuf[2] = 0x05 →
      s.latchStatus.status1 = 0x0019 ∧ s.latchStatus.cmdErr = true ∧ s.latchStatus.eom = true
        ∧ s.latchStatus.int = true ∧ s.latchStatus.s2Flag .rdy = true ∧ s.latchStatus.s2Flag .play = true
        ∧ s.latchStatus.s2Flag .erase = false ∧ s.latchStatus.s2Flag .record = false

/-- R144, for every `TW`: a timeout of `TW` bits loads its tenth, rounded down; the rule's corner cases; and
POLL_WAIT sees `TW` bits of each of its times (the form of a wider operand is the model's, assumption 21). -/
def Obligations.TimeoutCounterLoad : Prop :=
  (∀ (s : State) (timeout : Nat), timeout < 2 ^ s.params.tw →
      (s.setTimeoutCnt (timeoutLoad timeout)).timeoutCnt = timeout / 10)
    ∧ timeoutLoad 9 = 0 ∧ timeoutLoad 10 = 1 ∧ timeoutLoad 19 = 1 ∧ timeoutLoad 1000 = 100
    ∧ timeoutLoad 1005 = 100 ∧ timeoutLoad 0xFFFFFFFF = 429496729
    ∧ ∀ (s : State) (mask : Byte) (timeout settle : Nat), s.params.ms timeout < 2 ^ s.params.tw
        ∧ execHost (.pollWait mask timeout settle) s
          = execHost (.pollWait mask (s.params.ms timeout) (s.params.ms settle)) s

/-- R145, R149, for every `TW`: POLL_WAIT with `k` status reads that show the awaited bit set and no error, and then
one without an error that shows it clear: `k` reads each followed by `Delay(10)`, the last read, and `Ok` with the
counter `k` below its load; each read with its clear-interrupt frame if it shows EOM or INT. If instead that last
read fails, by its status frame or by its clear-interrupt frame, `CommunicationFailure`. -/
def Obligations.PollWaitEndsOnTheFirstClearSample : Prop :=
  ∀ (s : State) (mask : Byte) (timeout settle k : Nat), s.ready → k < s.params.ms timeout / 10 →
    (s.waitEnds 0 k mask → s.cmdErrAt (s.sampleAt 0 k) = false →
      ∃ t, execHost (.pollWait mask timeout settle) s = .next t ∧ endedWith t .ok
        ∧ t.trace = s.trace ++ delayEvents (s.params.ms settle) ++ s.waitEvents 0 k (s.params.ms settle)
            ++ s.statusEvents (s.sampleAt 0 k) (s.params.ms settle)
        ∧ latchesAfter s t 0 (k + 1) ∧ t.timeoutCnt = s.params.ms timeout / 10 - k
        ∧ handleKept s t ∧ instanceKept s t ∧ t.apcTmp = s.apcTmp)
    ∧ (s.waitBreaks 0 k mask →
      ∃ t, execHost (.pollWait mask timeout settle) s = .next t ∧ endedWith t .communicationFailure
        ∧ t.trace = s.trace ++ delayEvents (s.params.ms settle) ++ s.waitEvents 0 k (s.params.ms settle)
            ++ s.failedReadEvents (s.sampleAt 0 k)
        ∧ latchesAfter s t 0 (if (s.answerAt (s.sampleAt 0 k)).ok then k + 1 else k)
        ∧ t.timeoutCnt = s.params.ms timeout / 10 - k
        ∧ handleKept s t ∧ instanceKept s t ∧ t.apcTmp = s.apcTmp)

/-- R146: a bit that never clears gives `Timeout` after exactly `timeout / 10` reads, each with its clear-interrupt
frame if due and followed by `Delay(10)`, with the counter at 0; a timeout below 10 ms exchanges no frame. -/
def Obligations.PollWaitTimesOutAfterItsSamples : Prop :=
  ∀ (s : State) (mask : Byte) (timeout settle : Nat),
    s.ready → s.waitExpires 0 (s.params.ms timeout / 10) mask →
    ∃ t, execHost (.pollWait mask timeout settle) s = .next t ∧ endedWith t .timeout
      ∧ t.trace = s.trace ++ delayEvents (s.params.ms settle)
          ++ s.waitEvents 0 (s.params.ms timeout / 10) (s.params.ms settle)
      ∧ latchesAfter s t 0 (s.params.ms timeout / 10) ∧ t.timeoutCnt = 0
      ∧ handleKept s t ∧ instanceKept s t ∧ t.apcTmp = s.apcTmp

/-- R145, R277, for every `TW`: POLL_WAIT with `k` status reads that show the awaited bit set and no error, and then
one with the command-error bit set, ends there with `ChipReportedError`, after the clear-interrupt frame if one was
due, whatever the awaited bit. -/
def Obligations.PollAbortsOnACommandError : Prop :=
  ∀ (s : State) (mask : Byte) (timeout settle k : Nat), s.ready → k < s.params.ms timeout / 10 →
    s.waitEnds 0 k mask → s.cmdErrAt (s.sampleAt 0 k) = true →
    ∃ t, execHost (.pollWait mask timeout settle) s = .next t ∧ endedWith t .chipReportedError
      ∧ t.trace = s.trace ++ delayEvents (s.params.ms settle) ++ s.waitEvents 0 k (s.params.ms settle)
          ++ s.statusEvents (s.sampleAt 0 k) (s.params.ms settle)
      ∧ latchesAfter s t 0 (k + 1) ∧ t.timeoutCnt = s.params.ms timeout / 10 - k
      ∧ handleKept s t ∧ instanceKept s t ∧ t.apcTmp = s.apcTmp

/-- R146, whatever the chip and the ports answer: at most `timeout / 10` status reads, at most one clear-interrupt
frame for each, and on `Timeout` exactly `timeout / 10` reads. -/
def Obligations.PollingIsBoundedByItsTimeout : Prop :=
  ∀ (s t : State) (mask : Byte) (timeout settle : Nat), s.params.valid = true →
    execHost (.pollWait mask timeout settle) s = .next t →
    ∃ es, t.trace = s.trace ++ es
      ∧ sentCount ((rd3Frame s.params 0x05).map bitrev8) es ≤ s.params.ms timeout / 10
      ∧ sentCount ((cmdFrame s.params 0x04).map bitrev8) es
          ≤ sentCount ((rd3Frame s.params 0x05).map bitrev8) es
      ∧ (t.result = .timeout →
          sentCount ((rd3Frame s.params 0x05).map bitrev8) es = s.params.ms timeout / 10 ∧ t.timeoutCnt = 0)

/-! ## The APC word -/

/-- R163, R164, R190, for every instance of the field table: inserting a value changes no bit outside the span,
reading the field back gives the value, and every other field reads as before. -/
def Obligations.FieldInsertAndExtractAgree : Prop :=
  ∀ (p : Params) (f g : ApcField) (v w : Word12), p.valid = true → v.toNat < 2 ^ f.width →
    apcInsert p f v w &&& ~~~(f.mask p) = w &&& ~~~(f.mask p)
      ∧ apcExtract p f (apcInsert p f v w) = v
      ∧ (g ≠ f → apcExtract p g (apcInsert p f v w) = apcExtract p g w)

/-- R168 (WRITE_APC): the opcode is `0x45 | (VOL_SRC << 5)` and the word is sent as given; a failed frame is
`CommunicationFailure`. -/
def Obligations.WriteApcUsesTheHandlesOpcode : Prop :=
  ∀ (s : State) (w : Word12),
    (s.asPrinted → (s.answerAt 0).ok = true →
      ∃ t, execHost (.writeApc w) s = .next t ∧ endedWith t .ok ∧ commandFrame s t
        ∧ t.trace = s.trace ++ [s.xferAt 0 (wr3Frame (writeOpcode s.volSrc) w)])
    ∧ (s.ready → (s.answerAt 0).ok = false →
      ∃ t, execHost (.writeApc w) s = .next t ∧ endedWith t .communicationFailure ∧ commandFrame s t
        ∧ t.trace = s.trace ++ [.xferFail ((wr3Frame (writeOpcode s.volSrc) w).map bitrev8)])

/-- R164, R166, R170 to R187 (all ten setters): the read frame, then the write frame with the field replaced, by
the opcode of `VOL_SRC`, written even when the word did not change. If the read fails no other frame follows and
`APC_TMP` is kept; if the write fails `APC_TMP` holds the new word; both are `CommunicationFailure`. -/
def Obligations.FieldSettersReadModifyWrite : Prop :=
  ∀ (s : State) (f : ApcField) (v : Word12), v.toNat < 2 ^ f.width →
    (s.asPrinted → s.portsOk 2 → ∃ t, execHost (setterOf f v) s = .next t ∧ endedWith t .ok
      ∧ t.trace = s.trace ++ [s.xferAt 0 (rd4Frame s.params 0x44),
          s.xferAt 1 (wr3Frame (writeOpcode s.volSrc) (apcInsert s.params f v (s.apcAt 0)))]
      ∧ t.apcTmp = apcInsert s.params f v (s.apcAt 0)
      ∧ handleKept s t ∧ statusKept s t ∧ instanceKept s t ∧ t.timeoutCnt = s.timeoutCnt)
    ∧ (s.ready → (s.answerAt 0).ok = false →
      ∃ t, execHost (setterOf f v) s = .next t ∧ endedWith t .communicationFailure ∧ commandFrame s t
        ∧ t.trace = s.trace ++ [.xferFail ((rd4Frame s.params 0x44).map bitrev8)])
    ∧ (s.ready → (s.answerAt 0).ok = true → (s.answerAt 1).ok = false →
      ∃ t, execHost (setterOf f v) s = .next t ∧ endedWith t .communicationFailure
        ∧ t.trace = s.trace ++ [s.xferAt 0 (rd4Frame s.params 0x44),
            .xferFail ((wr3Frame (writeOpcode s.volSrc) (apcInsert s.params f v (s.apcAt 0))).map bitrev8)]
        ∧ t.apcTmp = apcInsert s.params f v (s.apcAt 0)
        ∧ handleKept s t ∧ statusKept s t ∧ instanceKept s t ∧ t.timeoutCnt = s.timeoutCnt)

/-- R165, R169, R171 to R188 (all ten getters): one read frame and the field's value, by its polarity; a failed read
is `CommunicationFailure`. -/
def Obligations.FieldGettersReadOnce : Prop :=
  ∀ (s : State) (f : ApcField),
    (s.asPrinted → (s.answerAt 0).ok = true → ∃ t, execHost (getterOf f) s = .next t ∧ endedWith t .ok
      ∧ t.rdata = (apcExtract s.params f (s.apcAt 0)).setWidth 16
      ∧ t.apcTmp = s.apcAt 0
      ∧ t.trace = s.trace ++ [s.xferAt 0 (rd4Frame s.params 0x44)]
      ∧ handleKept s t ∧ statusKept s t ∧ instanceKept s t ∧ t.timeoutCnt = s.timeoutCnt)
    ∧ (s.ready → (s.answerAt 0).ok = false →
      ∃ t, execHost (getterOf f) s = .next t ∧ endedWith t .communicationFailure ∧ commandFrame s t
        ∧ t.trace = s.trace ++ [.xferFail ((rd4Frame s.params 0x44).map bitrev8)])

/-- R190: set, then get, when no frame fails and the getter's read returns the word that the setter's write
sent (a hypothesis on the chip): the getter returns the value set. -/
def Obligations.SetThenGetReturnsTheValue : Prop :=
  ∀ (s t : State) (f : ApcField) (v : Word12), s.asPrinted → s.portsOk 3 → v.toNat < 2 ^ f.width →
    s.apcAt 2 = apcInsert s.params f v (s.apcAt 0) →
    execHost (setterOf f v) s = .next t → t.answerAt 0 = s.answerAt 2 →
    ∃ u, execHost (getterOf f) t = .next u ∧ endedWith u .ok ∧ u.rdata = v.setWidth 16

/-- R186 (SET_VOLUME_CONTROL): the word is written back unchanged with the operand's opcode, and only then
`VOL_SRC` is written. If the read fails no other frame follows and `APC_TMP` is kept; if the write fails `APC_TMP`
holds the word read; both are `CommunicationFailure`, and `VOL_SRC` keeps its value. -/
def Obligations.VolumeControlLatchesAfterItsWrite : Prop :=
  ∀ (s : State) (src : VolSrc),
    (s.asPrinted → s.portsOk 2 → ∃ t, execHost (.setVolumeControl src) s = .next t ∧ endedWith t .ok
      ∧ t.volSrc = src ∧ t.apcTmp = s.apcAt 0
      ∧ t.trace = s.trace ++ [s.xferAt 0 (rd4Frame s.params 0x44),
          s.xferAt 1 (wr3Frame (writeOpcode src) (s.apcAt 0))]
      ∧ t.chipVariant = s.chipVariant ∧ t.endAddress = s.endAddress ∧ t.initialized = s.initialized
      ∧ t.interruptDone = s.interruptDone ∧ statusKept s t ∧ instanceKept s t
      ∧ t.timeoutCnt = s.timeoutCnt)
    ∧ (s.ready → (s.answerAt 0).ok = false →
      ∃ t, execHost (.setVolumeControl src) s = .next t ∧ endedWith t .communicationFailure ∧ commandFrame s t
        ∧ t.trace = s.trace ++ [.xferFail ((rd4Frame s.params 0x44).map bitrev8)])
    ∧ (s.ready → (s.answerAt 0).ok = true → (s.answerAt 1).ok = false →
      ∃ t, execHost (.setVolumeControl src) s = .next t ∧ endedWith t .communicationFailure
        ∧ t.trace = s.trace ++ [s.xferAt 0 (rd4Frame s.params 0x44),
            .xferFail ((wr3Frame (writeOpcode src) (s.apcAt 0)).map bitrev8)]
        ∧ t.apcTmp = s.apcAt 0
        ∧ handleKept s t ∧ statusKept s t ∧ instanceKept s t ∧ t.timeoutCnt = s.timeoutCnt)
    ∧ (s.seq = .idle → s.initialized = false →
      ∃ t, execHost (.setVolumeControl src) s = .next t ∧ endedWith t .notInitialized ∧ nothingDone s t)

/-- R189 (GET_VOLUME_CONTROL): `VOL_SRC`, with no frame and no state written. -/
def Obligations.GetVolumeControlExchangesNothing : Prop :=
  ∀ s : State, s.seq = .idle → s.initialized = true →
    ∃ t, execHost .getVolumeControl s = .next t ∧ endedWith t .ok ∧ nothingDone s t
      ∧ (s.volSrc = .button → t.rdata = 0) ∧ (s.volSrc = .register → t.rdata = 1)

/-! ## Session -/

/-- R250, R251: SET_TYPE writes `CHIP_VARIANT` and nothing else of the handle; GET_TYPE returns it. Neither is
gated, neither sends a frame. -/
def Obligations.TypeAccessorsAreNotGated : Prop :=
  ∀ (s : State) (v : VariantCode), s.seq = .idle →
    (∃ t, execHost (.setType v) s = .next t ∧ endedWith t .ok ∧ t.chipVariant = v
      ∧ nothingDone { s with chipVariant := v } t)
    ∧ (∃ t, execHost .getType s = .next t ∧ endedWith t .ok ∧ t.rdata = s.chipVariant.setWidth 16
      ∧ nothingDone s t)

/-- R255, R256: GET_INT_DONE returns the flag; CLR_INT_DONE clears it and nothing else. -/
def Obligations.InterruptDoneAccessors : Prop :=
  ∀ s : State, s.seq = .idle →
    (∃ t, execHost .getIntDone s = .next t ∧ endedWith t .ok
      ∧ t.rdata = (if s.interruptDone then 1 else 0) ∧ nothingDone s t)
    ∧ (∃ t, execHost .clrIntDone s = .next t ∧ endedWith t .ok ∧ t.interruptDone = false
      ∧ nothingDone { s with interruptDone := false } t)

/-- R252: INIT when every port call succeeds, `k` status reads below 100 keep the wait for ready going and the next
ends it without an error, and the chip reports the variant's id. -/
def Obligations.InitBringsTheEngineToReady : Prop :=
  ∀ (s : State) (v : Variant) (k q : Nat),
    s.canInit → s.chipVariant = v.code → k < 100 → q = s.sampleAt 5 (k + 1) → s.portsOk (q + 2) →
    s.waitEnds 5 k (s2Mask s.params .rdy) → s.cmdErrAt (s.sampleAt 5 k) = false →
    s.rxAt q 2 >>> 3 = deviceIdOf s.params v →
    ∃ t, execHost .init s = .next t ∧ endedWith t .ok
      ∧ t.initialized = true ∧ t.endAddress = endAddrOf v ∧ t.volSrc = .register
      ∧ t.chipVariant = s.chipVariant ∧ t.interruptDone = s.interruptDone
      ∧ latchesAfter s t 5 (k + 1) ∧ t.timeoutCnt = 100 - k ∧ instanceKept s t ∧ t.apcTmp = s.apcTmp
      ∧ t.trace = s.trace ++ s.powerUpEvents ++ s.waitEvents 5 k 100 ++ s.statusEvents (s.sampleAt 5 k) 100
          ++ [s.xferAt q (rd3Frame s.params 0x09), s.xferAt (q + 1) (cmdFrame s.params 0x03), .delay 100]

/-- R258 (a), (c), (d), whatever the ports answer: an INIT that returns `Ok` opened both ports, pulsed the reset
line, sent one power-up frame, at least one status frame, one device-id frame that carries the variant's id,
and one reset frame, in that order, and leaves the variant's end address. -/
def Obligations.InitOkMeansTheHandshakePassed : Prop :=
  ∀ s t : State, s.params.valid = true → s.params.postCheck = PostChecks.printed →
    execHost .init s = .next t → t.result = .ok →
    ∃ (v : Variant) (puRx idRx resetRx : List Byte) (poll : List Event),
      s.chipVariant = v.code ∧ t.initialized = true ∧ t.endAddress = endAddrOf v ∧ t.volSrc = .register
      ∧ bitrev8 (idRx.getD 2 0) >>> 3 = deviceIdOf s.params v
      ∧ 1 ≤ sentCount ((rd3Frame s.params 0x05).map bitrev8) poll
      ∧ t.trace = s.trace
          ++ [.phyInit true, .gpioInit true, .gpioWrite true true, .delay 1, .gpioWrite false true, .delay 1,
              .xfer ((cmdFrame s.params 0x01).map bitrev8) puRx, .delay 100]
          ++ poll
          ++ [.xfer ((rd3Frame s.params 0x09).map bitrev8) idRx,
              .xfer ((cmdFrame s.params 0x03).map bitrev8) resetRx, .delay 100]

/-- R258 (b), R252, whatever the ports answer: an INIT that returns an error leaves `INITIALIZED` and `VOL_SRC`,
and after every port it opened stands its close. `END_ADDRESS` is written only if the failure is in step 9: without
a reset frame, sent or failed, it is as before, and with one it is the variant's. And the result of each failing step
but 1 and 7, with its events: a failed call of PHY or GPIO (steps 2 to 4), a failed frame (5, 6 and 9) and a failed
status read (5) are `CommunicationFailure`, a command error of step 5 is `ChipReportedError`, 100 samples that end no
wait are `Timeout`; from step 4 on both ports are released after it, and the code stands whatever these calls
answer. -/
def Obligations.FailedInitReleasesItsPorts : Prop :=
  (∀ s t : State, execHost .init s = .next t → t.result ≠ .ok →
    t.initialized = false ∧ t.volSrc = s.volSrc ∧ t.chipVariant = s.chipVariant
      ∧ t.interruptDone = s.interruptDone
      ∧ ∃ es, t.trace = s.trace ++ es
        ∧ closedAfter (fun e => decide (e = .phyInit true)) Event.isPhyClose es
        ∧ closedAfter (fun e => decide (e = .gpioInit true)) Event.isPhyClose es
        ∧ closedAfter (fun e => decide (e = .gpioInit true)) Event.isGpioClose es
        ∧ (s.params.valid = true →
          ((∀ e ∈ es, e.sent ≠ some ((cmdFrame s.params 0x03).map bitrev8)) → t.endAddress = s.endAddress)
          ∧ ((∃ e ∈ es, e.sent = some ((cmdFrame s.params 0x03).map bitrev8)) →
            ∃ v : Variant, s.chipVariant = v.code ∧ t.endAddress = endAddrOf v)))
  ∧ ∀ s : State, s.canInit →
    ((s.answerAt 0).ok = false →
      ∃ t, execHost .init s = .next t ∧ endedWith t .communicationFailure ∧ commandFrame s t
        ∧ t.trace = s.trace ++ [.phyInit false])
    ∧ (s.portsOk 1 → (s.answerAt 1).ok = false →
      ∃ t, execHost .init s = .next t ∧ endedWith t .communicationFailure ∧ commandFrame s t
        ∧ t.trace = s.trace ++ [.phyInit true, .gpioInit false, .phyDeinit (s.answerAt 2).ok])
    ∧ (s.portsOk 2 → (s.answerAt 2).ok = false →
      ∃ t, execHost .init s = .next t ∧ commandFrame s t ∧ initRaises s t .communicationFailure
        [.phyInit true, .gpioInit true, .gpioWrite true false] 3)
    ∧ (s.portsOk 3 → (s.answerAt 3).ok = false →
      ∃ t, execHost .init s = .next t ∧ commandFrame s t ∧ initRaises s t .communicationFailure
        [.phyInit true, .gpioInit true, .gpioWrite true true, .delay 1, .gpioWrite false false] 4)
    ∧ (s.portsOk 4 → (s.answerAt 4).ok = false →
      ∃ t, execHost .init s = .next t ∧ commandFrame s t ∧ initRaises s t .communicationFailure
        (openEvents ++ [.xferFail ((cmdFrame s.params 0x01).map bitrev8)]) 5)
    ∧ (∀ k p, k < 100 → p = s.sampleAt 5 k → s.waitBreaks 5 k (s2Mask s.params .rdy) →
      ∃ t, execHost .init s = .next t
        ∧ latchesAfter s t 5 (if (s.answerAt p).ok then k + 1 else k) ∧ t.timeoutCnt = 100 - k
        ∧ initRaises s t .communicationFailure
          (s.powerUpEvents ++ s.waitEvents 5 k 100 ++ s.failedReadEvents p)
          (p + if (s.answerAt p).ok then 2 else 1))
    ∧ (s.waitExpires 5 100 (s2Mask s.params .rdy) →
      ∃ t, execHost .init s = .next t ∧ latchesAfter s t 5 100 ∧ t.timeoutCnt = 0
        ∧ initRaises s t .timeout (s.powerUpEvents ++ s.waitEvents 5 100 100) (s.sampleAt 5 100))
    ∧ ∀ k q, k < 100 → q = s.sampleAt 5 (k + 1) → s.waitEnds 5 k (s2Mask s.params .rdy) →
      (s.cmdErrAt (s.sampleAt 5 k) = true →
        ∃ t, execHost .init s = .next t ∧ latchesAfter s t 5 (k + 1) ∧ t.timeoutCnt = 100 - k
          ∧ initRaises s t .chipReportedError
            (s.powerUpEvents ++ s.waitEvents 5 k 100 ++ s.statusEvents (s.sampleAt 5 k) 100) q)
      ∧ (s.cmdErrAt (s.sampleAt 5 k) = false → (s.answerAt q).ok = false →
        ∃ t, execHost .init s = .next t ∧ latchesAfter s t 5 (k + 1) ∧ t.timeoutCnt = 100 - k
          ∧ initRaises s t .communicationFailure
            (s.powerUpEvents ++ s.waitEvents 5 k 100 ++ s.statusEvents (s.sampleAt 5 k) 100
              ++ [.xferFail ((rd3Frame s.params 0x09).map bitrev8)]) (q + 1))
      ∧ ∀ v : Variant, s.chipVariant = v.code → s.cmdErrAt (s.sampleAt 5 k) = false →
        (s.answerAt q).ok = true → s.rxAt q 2 >>> 3 = deviceIdOf s.params v → (s.answerAt (q + 1)).ok = false →
        ∃ t, execHost .init s = .next t ∧ latchesAfter s t 5 (k + 1) ∧ t.timeoutCnt = 100 - k
          ∧ t.endAddress = endAddrOf v
          ∧ initRaises s t .communicationFailure
            (s.powerUpEvents ++ s.waitEvents 5 k 100 ++ s.statusEvents (s.sampleAt 5 k) 100
              ++ [s.xferAt q (rd3Frame s.params 0x09), .xferFail ((cmdFrame s.params 0x03).map bitrev8)])
            (q + 2)

/-- R280: with `BINDINGS_OK = 0` INIT ends in `MissingBinding` before any port event. -/
def Obligations.MissingBindingStopsInitAtOnce : Prop :=
  ∀ s : State, s.seq = .idle → s.initialized = false → s.bindingsOk = false →
    ∃ t, execHost .init s = .next t ∧ endedWith t .missingBinding ∧ nothingDone s t

/-- R279: after the device-id frame, a variant code without a table entry is `UnknownVariant` and a wrong id is
`IdentityMismatch`; both ports are released, and neither `INITIALIZED` nor `END_ADDRESS` is written. -/
def Obligations.InitRejectsTheWrongChip : Prop :=
  ∀ (s : State) (k q : Nat),
    s.canInit → k < 100 → q = s.sampleAt 5 (k + 1) → s.portsOk (q + 1) →
    s.waitEnds 5 k (s2Mask s.params .rdy) → s.cmdErrAt (s.sampleAt 5 k) = false →
    (∀ v : Variant, s.chipVariant = v.code → s.rxAt q 2 >>> 3 ≠ deviceIdOf s.params v) →
    ∃ t, execHost .init s = .next t ∧ handleKept s t
      ∧ latchesAfter s t 5 (k + 1) ∧ t.timeoutCnt = 100 - k
      ∧ initRaises s t (if 9 < s.chipVariant.toNat then .unknownVariant else .identityMismatch)
          (s.powerUpEvents ++ s.waitEvents 5 k 100 ++ s.statusEvents (s.sampleAt 5 k) 100
            ++ [s.xferAt q (rd3Frame s.params 0x09)]) (q + 1)

/-- R254, conflict C9 (DEINIT): any error of the power-down step is discarded, a failed command, status or
clear-interrupt frame as well as the command error, and both ports are closed, PHY first, and `INITIALIZED` is
cleared; a close that fails ends in `CommunicationFailure` with `INITIALIZED` still 1. -/
def Obligations.DeinitClosesBothPorts : Prop :=
  ∀ s : State, s.asPrinted →
    (∀ d : Nat, d = (if s.irqAt 1 then 1 else 0) → s.portsOk (2 + d) →
      ∃ t, execHost .deinit s = .next t ∧ t.status1 = s.status1At 1 ∧ t.status2 = s.status2At 1
        ∧ deinitCloses s t (2 + d) (s.xferAt 0 (cmdFrame s.params 0x07) :: s.statusEvents 1 0))
    ∧ ((s.answerAt 0).ok = false →
      ∃ t, execHost .deinit s = .next t ∧ statusKept s t
        ∧ deinitCloses s t 1 [.xferFail ((cmdFrame s.params 0x07).map bitrev8)])
    ∧ ((s.answerAt 0).ok = true → (s.answerAt 1).ok = false →
      ∃ t, execHost .deinit s = .next t ∧ statusKept s t
        ∧ deinitCloses s t 2 [s.xferAt 0 (cmdFrame s.params 0x07),
            .xferFail ((rd3Frame s.params 0x05).map bitrev8)])
    ∧ (s.portsOk 2 → s.irqAt 1 = true → (s.answerAt 2).ok = false →
      ∃ t, execHost .deinit s = .next t ∧ t.status1 = s.status1At 1 ∧ t.status2 = s.status2At 1
        ∧ deinitCloses s t 3 [s.xferAt 0 (cmdFrame s.params 0x07), s.xferAt 1 (rd3Frame s.params 0x05),
            .xferFail ((cmdFrame s.params 0x04).map bitrev8)])

/-! ## Result codes and interrupts -/

/-- R273, R276: every gated operation at a not initialized engine ends in `NotInitialized`, before anything else
it does, whatever its operands. That the rows are gated as operations is the model's reading (assumptions 10,
11). -/
def Obligations.GatedOperationsNeedInit : Prop :=
  ∀ s : State, s.seq = .idle → s.initialized = false →
    (∀ i : Instr, ∃ t, exec i s = .next t ∧ endedWith t .notInitialized ∧ nothingDone s t)
    ∧ ∀ o : HostOp, o.isGated = true →
        ∃ t, execHost o s = .next t ∧ endedWith t .notInitialized ∧ nothingDone s t

/-- R274, R275: a command whose first frame fails ends in `CommunicationFailure`; the failed frame is the only
event, and neither the handle nor the latches change. -/
def Obligations.FailedFrameEndsTheCommand : Prop :=
  ∀ (s : State) (i : Instr), s.ready → (s.answerAt 0).ok = false →
    (∀ a b, i = .setPlay a b ∨ i = .setRec a b ∨ i = .setErase a b →
      rangeLegal a b s.endAddress = true) →
    ∃ t, exec i s = .next t ∧ endedWith t .communicationFailure ∧ commandFrame s t
      ∧ t.rxbuf = s.rxbuf
      ∧ t.trace = s.trace ++ [.xferFail ((encodeWith s.params i).map bitrev8)]

/-- R285 (IRQ_HANDLER): the status read, then `Event(EOM)` and `Event(INT)` in that order for the bits that are
set and if a sink is connected; `INTERRUPT_DONE` is set when INT is set and otherwise kept; if the
clear-interrupt frame fails, or the status frame, no event follows and the flag is not written. -/
def Obligations.IrqHandlerDispatchesEomThenInt : Prop :=
  ∀ s : State,
    (s.ready → (s.answerAt 0).ok = true → (s.irqAt 0 = true → (s.answerAt 1).ok = true) →
      ∃ t, execHost .irqHandler s = .next t ∧ endedWith t .ok
        ∧ t.interruptDone = (s.interruptDone || (s.status1At 0).getLsbD s.params.s1Int)
        ∧ t.trace = s.trace ++ s.statusEvents 0 0
            ++ (if (s.status1At 0).getLsbD s.params.s1Eom && s.eventCbPresent then [.event .eom] else [])
            ++ (if (s.status1At 0).getLsbD s.params.s1Int && s.eventCbPresent then [.event .int] else [])
        ∧ t.status1 = s.status1At 0 ∧ t.status2 = s.status2At 0
        ∧ t.chipVariant = s.chipVariant ∧ t.endAddress = s.endAddress ∧ t.volSrc = s.volSrc
        ∧ t.initialized = s.initialized ∧ instanceKept s t ∧ t.timeoutCnt = s.timeoutCnt
        ∧ t.apcTmp = s.apcTmp)
    ∧ (s.ready → (s.answerAt 0).ok = true → s.irqAt 0 = true → (s.answerAt 1).ok = false →
      ∃ t, execHost .irqHandler s = .next t ∧ endedWith t .communicationFailure ∧ handleKept s t
        ∧ t.status1 = s.status1At 0 ∧ t.status2 = s.status2At 0
        ∧ t.trace = s.trace ++ [s.xferAt 0 (rd3Frame s.params 0x05),
            .xferFail ((cmdFrame s.params 0x04).map bitrev8)])
    ∧ (s.ready → (s.answerAt 0).ok = false →
      ∃ t, execHost .irqHandler s = .next t ∧ endedWith t .communicationFailure ∧ commandFrame s t
        ∧ t.trace = s.trace ++ [.xferFail ((rd3Frame s.params 0x05).map bitrev8)])
    ∧ (s.seq = .idle → s.initialized = false →
      ∃ t, execHost .irqHandler s = .next t ∧ endedWith t .notInitialized ∧ nothingDone s t)

/-! ## Rules of the whole machine -/

/-- R214, R239, R240: no command of the opcode table changes a handle register, whatever the ports answer. -/
def Obligations.NoCommandWritesTheHandle : Prop :=
  ∀ (i : Instr) (s t : State), exec i s = .next t →
    handleKept s t ∧ instanceKept s t ∧ ∃ es, t.trace = s.trace ++ es

/-- R290, R258 (d), R31: every step keeps the invariant: between steps the sequencer is idle, its path since reset
has made only the table's transitions, an initialized engine has one of the ten end addresses, and the timeout
counter is a number of `TW` bits. The path inside INIT and DEINIT after an error is the model's reading
(assumption 17). -/
def Obligations.StepKeepsTheInvariant : Prop :=
  ∀ s t : State, s.Inv → step s = .next t → t.Inv

/-- The invariant holds at reset. -/
def Obligations.ResetMeetsTheInvariant : Prop := State.reset.Inv

/-- R69, R92, R127: whatever the ports answer and whatever is requested, every frame the engine hands to the PHY is
the bit-reversed frame of one of the 24 commands. -/
def Obligations.EveryFrameOnTheWireIsACommand : Prop :=
  ∀ s t : State, s.params.valid = true → s.wireDisciplined → step s = .next t → t.wireDisciplined

/-- R20 to R24, R258 (a): who may change a handle register. -/
def Obligations.HandleRegistersHaveTheirWriters : Prop :=
  ∀ s t : State, step s = .next t →
    (s.initialized = false → t.initialized = true →
      s.inputs.head? = some (.op .init) ∧ t.result = .ok)
    ∧ (s.initialized = true → t.initialized = false →
      (s.inputs.head? = some (.op .deinit) ∧ t.result = .ok) ∨ s.inputs.head? = some .engineReset)
    ∧ (t.chipVariant ≠ s.chipVariant →
      (∃ v, s.inputs.head? = some (.op (.setType v))) ∨ s.inputs.head? = some .engineReset)
    ∧ (t.endAddress ≠ s.endAddress →
      s.inputs.head? = some (.op .init) ∨ s.inputs.head? = some .engineReset)
    ∧ (t.volSrc ≠ s.volSrc → s.inputs.head? = some (.op .init)
      ∨ (∃ src, s.inputs.head? = some (.op (.setVolumeControl src)))
      ∨ s.inputs.head? = some .engineReset)
    ∧ (s.interruptDone = false → t.interruptDone = true → s.inputs.head? = some (.op .irqHandler))
    ∧ (s.interruptDone = true → t.interruptDone = false →
      s.inputs.head? = some (.op .clrIntDone) ∨ s.inputs.head? = some .engineReset)

/-- R10, R17, R75: a step only appends to the trace, and writes no parameter. -/
def Obligations.StepAppendsToTheTrace : Prop :=
  ∀ s t : State, step s = .next t → t.params = s.params ∧ ∃ es, t.trace = s.trace ++ es

/-- R66. -/
def Obligations.EndAddressTable : Prop :=
  ∀ row ∈ [(Variant.isd1730, (0 : VariantCode), (0x0FF : Addr)), (.isd1740, 1, 0x14F), (.isd1750, 2, 0x19F),
      (.isd1760, 3, 0x1EF), (.isd1790, 4, 0x2DF), (.isd17120, 5, 0x3CF), (.isd17150, 6, 0x4BF),
      (.isd17180, 7, 0x5AF), (.isd17210, 8, 0x69F), (.isd17240, 9, 0x78F)],
    row.1.code = row.2.1 ∧ endAddrOf row.1 = row.2.2 ∧ variantOfCode row.2.1 = some row.1
      ∧ ∀ c : VariantCode, 9 < c.toNat → variantOfCode c = none
end

