-- ==== Sys2Proof/Laws/State.lean ====
section
/-! SUPPORT. One lemma per field per named update of the state: what each update leaves as it was and what it
writes, so that no later proof unfolds a record update. -/

namespace Sys2Proof.Machine

/-! ## `setSeq`: `SEQ <- q` -/

@[simp] theorem State.setSeq_chipVariant (s : State) (q : SeqState) :
    (s.setSeq q).chipVariant = s.chipVariant := rfl

@[simp] theorem State.setSeq_endAddress (s : State) (q : SeqState) :
    (s.setSeq q).endAddress = s.endAddress := rfl

@[simp] theorem State.setSeq_volSrc (s : State) (q : SeqState) :
    (s.setSeq q).volSrc = s.volSrc := rfl

@[simp] theorem State.setSeq_initialized (s : State) (q : SeqState) :
    (s.setSeq q).initialized = s.initialized := rfl

@[simp] theorem State.setSeq_interruptDone (s : State) (q : SeqState) :
    (s.setSeq q).interruptDone = s.interruptDone := rfl

@[simp] theorem State.setSeq_status1 (s : State) (q : SeqState) :
    (s.setSeq q).status1 = s.status1 := rfl

@[simp] theorem State.setSeq_status2 (s : State) (q : SeqState) :
    (s.setSeq q).status2 = s.status2 := rfl

@[simp] theorem State.setSeq_seq (s : State) (q : SeqState) :
    (s.setSeq q).seq = q := rfl

@[simp] theorem State.setSeq_timeoutCnt (s : State) (q : SeqState) :
    (s.setSeq q).timeoutCnt = s.timeoutCnt := rfl

@[simp] theorem State.setSeq_apcTmp (s : State) (q : SeqState) :
    (s.setSeq q).apcTmp = s.apcTmp := rfl

@[simp] theorem State.setSeq_txbuf (s : State) (q : SeqState) :
    (s.setSeq q).txbuf = s.txbuf := rfl

@[simp] theorem State.setSeq_rxbuf (s : State) (q : SeqState) :
    (s.setSeq q).rxbuf = s.rxbuf := rfl

@[simp] theorem State.setSeq_flen (s : State) (q : SeqState) :
    (s.setSeq q).flen = s.flen := rfl

@[simp] theorem State.setSeq_result (s : State) (q : SeqState) :
    (s.setSeq q).result = s.result := rfl

@[simp] theorem State.setSeq_rdata (s : State) (q : SeqState) :
    (s.setSeq q).rdata = s.rdata := rfl

@[simp] theorem State.setSeq_bindingsOk (s : State) (q : SeqState) :
    (s.setSeq q).bindingsOk = s.bindingsOk := rfl

@[simp] theorem State.setSeq_eventCbPresent (s : State) (q : SeqState) :
    (s.setSeq q).eventCbPresent = s.eventCbPresent := rfl

@[simp] theorem State.setSeq_params (s : State) (q : SeqState) :
    (s.setSeq q).params = s.params := rfl

@[simp] theorem State.setSeq_inputs (s : State) (q : SeqState) :
    (s.setSeq q).inputs = s.inputs := rfl

@[simp] theorem State.setSeq_answers (s : State) (q : SeqState) :
    (s.setSeq q).answers = s.answers := rfl

@[simp] theorem State.setSeq_hang (s : State) (q : SeqState) :
    (s.setSeq q).hang = s.hang := rfl

@[simp] theorem State.setSeq_trace (s : State) (q : SeqState) :
    (s.setSeq q).trace = s.trace := rfl

@[simp] theorem State.setSeq_draws (s : State) (q : SeqState) :
    (s.setSeq q).draws = s.draws := rfl

@[simp] theorem State.setSeq_seqLog (s : State) (q : SeqState) :
    (s.setSeq q).seqLog = s.seqLog ++ [q] := rfl

/-! ## `setTimeoutCnt`: `TIMEOUT_CNT <- n` -/

@[simp] theorem State.setTimeoutCnt_chipVariant (s : State) (n : Nat) :
    (s.setTimeoutCnt n).chipVariant = s.chipVariant := rfl

@[simp] theorem State.setTimeoutCnt_endAddress (s : State) (n : Nat) :
    (s.setTimeoutCnt n).endAddress = s.endAddress := rfl

@[simp] theorem State.setTimeoutCnt_volSrc (s : State) (n : Nat) :
    (s.setTimeoutCnt n).volSrc = s.volSrc := rfl

@[simp] theorem State.setTimeoutCnt_initialized (s : State) (n : Nat) :
    (s.setTimeoutCnt n).initialized = s.initialized := rfl

@[simp] theorem State.setTimeoutCnt_interruptDone (s : State) (n : Nat) :
    (s.setTimeoutCnt n).interruptDone = s.interruptDone := rfl

@[simp] theorem State.setTimeoutCnt_status1 (s : State) (n : Nat) :
    (s.setTimeoutCnt n).status1 = s.status1 := rfl

@[simp] theorem State.setTimeoutCnt_status2 (s : State) (n : Nat) :
    (s.setTimeoutCnt n).status2 = s.status2 := rfl

@[simp] theorem State.setTimeoutCnt_seq (s : State) (n : Nat) :
    (s.setTimeoutCnt n).seq = s.seq := rfl

@[simp] theorem State.setTimeoutCnt_timeoutCnt (s : State) (n : Nat) :
    (s.setTimeoutCnt n).timeoutCnt = s.params.ms n := rfl

@[simp] theorem State.setTimeoutCnt_apcTmp (s : State) (n : Nat) :
    (s.setTimeoutCnt n).apcTmp = s.apcTmp := rfl

@[simp] theorem State.setTimeoutCnt_txbuf (s : State) (n : Nat) :
    (s.setTimeoutCnt n).txbuf = s.txbuf := rfl

@[simp] theorem State.setTimeoutCnt_rxbuf (s : State) (n : Nat) :
    (s.setTimeoutCnt n).rxbuf = s.rxbuf := rfl

@[simp] theorem State.setTimeoutCnt_flen (s : State) (n : Nat) :
    (s.setTimeoutCnt n).flen = s.flen := rfl

@[simp] theorem State.setTimeoutCnt_result (s : State) (n : Nat) :
    (s.setTimeoutCnt n).result = s.result := rfl

@[simp] theorem State.setTimeoutCnt_rdata (s : State) (n : Nat) :
    (s.setTimeoutCnt n).rdata = s.rdata := rfl

@[simp] theorem State.setTimeoutCnt_bindingsOk (s : State) (n : Nat) :
    (s.setTimeoutCnt n).bindingsOk = s.bindingsOk := rfl

@[simp] theorem State.setTimeoutCnt_eventCbPresent (s : State) (n : Nat) :
    (s.setTimeoutCnt n).eventCbPresent = s.eventCbPresent := rfl

@[simp] theorem State.setTimeoutCnt_params (s : State) (n : Nat) :
    (s.setTimeoutCnt n).params = s.params := rfl

@[simp] theorem State.setTimeoutCnt_inputs (s : State) (n : Nat) :
    (s.setTimeoutCnt n).inputs = s.inputs := rfl

@[simp] theorem State.setTimeoutCnt_answers (s : State) (n : Nat) :
    (s.setTimeoutCnt n).answers = s.answers := rfl

@[simp] theorem State.setTimeoutCnt_hang (s : State) (n : Nat) :
    (s.setTimeoutCnt n).hang = s.hang := rfl

@[simp] theorem State.setTimeoutCnt_trace (s : State) (n : Nat) :
    (s.setTimeoutCnt n).trace = s.trace := rfl

@[simp] theorem State.setTimeoutCnt_draws (s : State) (n : Nat) :
    (s.setTimeoutCnt n).draws = s.draws := rfl

@[simp] theorem State.setTimeoutCnt_seqLog (s : State) (n : Nat) :
    (s.setTimeoutCnt n).seqLog = s.seqLog := rfl

/-! ## `setApcTmp`: `APC_TMP <- w` -/

@[simp] theorem State.setApcTmp_chipVariant (s : State) (w : Word12) :
    (s.setApcTmp w).chipVariant = s.chipVariant := rfl

@[simp] theorem State.setApcTmp_endAddress (s : State) (w : Word12) :
    (s.setApcTmp w).endAddress = s.endAddress := rfl

@[simp] theorem State.setApcTmp_volSrc (s : State) (w : Word12) :
    (s.setApcTmp w).volSrc = s.volSrc := rfl

@[simp] theorem State.setApcTmp_initialized (s : State) (w : Word12) :
    (s.setApcTmp w).initialized = s.initialized := rfl

@[simp] theorem State.setApcTmp_interruptDone (s : State) (w : Word12) :
    (s.setApcTmp w).interruptDone = s.interruptDone := rfl

@[simp] theorem State.setApcTmp_status1 (s : State) (w : Word12) :
    (s.setApcTmp w).status1 = s.status1 := rfl

@[simp] theorem State.setApcTmp_status2 (s : State) (w : Word12) :
    (s.setApcTmp w).status2 = s.status2 := rfl

@[simp] theorem State.setApcTmp_seq (s : State) (w : Word12) :
    (s.setApcTmp w).seq = s.seq := rfl

@[simp] theorem State.setApcTmp_timeoutCnt (s : State) (w : Word12) :
    (s.setApcTmp w).timeoutCnt = s.timeoutCnt := rfl

@[simp] theorem State.setApcTmp_apcTmp (s : State) (w : Word12) :
    (s.setApcTmp w).apcTmp = w := rfl

@[simp] theorem State.setApcTmp_txbuf (s : State) (w : Word12) :
    (s.setApcTmp w).txbuf = s.txbuf := rfl

@[simp] theorem State.setApcTmp_rxbuf (s : State) (w : Word12) :
    (s.setApcTmp w).rxbuf = s.rxbuf := rfl

@[simp] theorem State.setApcTmp_flen (s : State) (w : Word12) :
    (s.setApcTmp w).flen = s.flen := rfl

@[simp] theorem State.setApcTmp_result (s : State) (w : Word12) :
    (s.setApcTmp w).result = s.result := rfl

@[simp] theorem State.setApcTmp_rdata (s : State) (w : Word12) :
    (s.setApcTmp w).rdata = s.rdata := rfl

@[simp] theorem State.setApcTmp_bindingsOk (s : State) (w : Word12) :
    (s.setApcTmp w).bindingsOk = s.bindingsOk := rfl

@[simp] theorem State.setApcTmp_eventCbPresent (s : State) (w : Word12) :
    (s.setApcTmp w).eventCbPresent = s.eventCbPresent := rfl

@[simp] theorem State.setApcTmp_params (s : State) (w : Word12) :
    (s.setApcTmp w).params = s.params := rfl

@[simp] theorem State.setApcTmp_inputs (s : State) (w : Word12) :
    (s.setApcTmp w).inputs = s.inputs := rfl

@[simp] theorem State.setApcTmp_answers (s : State) (w : Word12) :
    (s.setApcTmp w).answers = s.answers := rfl

@[simp] theorem State.setApcTmp_hang (s : State) (w : Word12) :
    (s.setApcTmp w).hang = s.hang := rfl

@[simp] theorem State.setApcTmp_trace (s : State) (w : Word12) :
    (s.setApcTmp w).trace = s.trace := rfl

@[simp] theorem State.setApcTmp_draws (s : State) (w : Word12) :
    (s.setApcTmp w).draws = s.draws := rfl

@[simp] theorem State.setApcTmp_seqLog (s : State) (w : Word12) :
    (s.setApcTmp w).seqLog = s.seqLog := rfl

/-! ## `setChipVariant`: `CHIP_VARIANT <- v` -/

@[simp] theorem State.setChipVariant_chipVariant (s : State) (v : VariantCode) :
    (s.setChipVariant v).chipVariant = v := rfl

@[simp] theorem State.setChipVariant_endAddress (s : State) (v : VariantCode) :
    (s.setChipVariant v).endAddress = s.endAddress := rfl

@[simp] theorem State.setChipVariant_volSrc (s : State) (v : VariantCode) :
    (s.setChipVariant v).volSrc = s.volSrc := rfl

@[simp] theorem State.setChipVariant_initialized (s : State) (v : VariantCode) :
    (s.setChipVariant v).initialized = s.initialized := rfl

@[simp] theorem State.setChipVariant_interruptDone (s : State) (v : VariantCode) :
    (s.setChipVariant v).interruptDone = s.interruptDone := rfl

@[simp] theorem State.setChipVariant_status1 (s : State) (v : VariantCode) :
    (s.setChipVariant v).status1 = s.status1 := rfl

@[simp] theorem State.setChipVariant_status2 (s : State) (v : VariantCode) :
    (s.setChipVariant v).status2 = s.status2 := rfl

@[simp] theorem State.setChipVariant_seq (s : State) (v : VariantCode) :
    (s.setChipVariant v).seq = s.seq := rfl

@[simp] theorem State.setChipVariant_timeoutCnt (s : State) (v : VariantCode) :
    (s.setChipVariant v).timeoutCnt = s.timeoutCnt := rfl

@[simp] theorem State.setChipVariant_apcTmp (s : State) (v : VariantCode) :
    (s.setChipVariant v).apcTmp = s.apcTmp := rfl

@[simp] theorem State.setChipVariant_txbuf (s : State) (v : VariantCode) :
    (s.setChipVariant v).txbuf = s.txbuf := rfl

@[simp] theorem State.setChipVariant_rxbuf (s : State) (v : VariantCode) :
    (s.setChipVariant v).rxbuf = s.rxbuf := rfl

@[simp] theorem State.setChipVariant_flen (s : State) (v : VariantCode) :
    (s.setChipVariant v).flen = s.flen := rfl

@[simp] theorem State.setChipVariant_result (s : State) (v : VariantCode) :
    (s.setChipVariant v).result = s.result := rfl

@[simp] theorem State.setChipVariant_rdata (s : State) (v : VariantCode) :
    (s.setChipVariant v).rdata = s.rdata := rfl

@[simp] theorem State.setChipVariant_bindingsOk (s : State) (v : VariantCode) :
    (s.setChipVariant v).bindingsOk = s.bindingsOk := rfl

@[simp] theorem State.setChipVariant_eventCbPresent (s : State) (v : VariantCode) :
    (s.setChipVariant v).eventCbPresent = s.eventCbPresent := rfl

@[simp] theorem State.setChipVariant_params (s : State) (v : VariantCode) :
    (s.setChipVariant v).params = s.params := rfl

@[simp] theorem State.setChipVariant_inputs (s : State) (v : VariantCode) :
    (s.setChipVariant v).inputs = s.inputs := rfl

@[simp] theorem State.setChipVariant_answers (s : State) (v : VariantCode) :
    (s.setChipVariant v).answers = s.answers := rfl

@[simp] theorem State.setChipVariant_hang (s : State) (v : VariantCode) :
    (s.setChipVariant v).hang = s.hang := rfl

@[simp] theorem State.setChipVariant_trace (s : State) (v : VariantCode) :
    (s.setChipVariant v).trace = s.trace := rfl

@[simp] theorem State.setChipVariant_draws (s : State) (v : VariantCode) :
    (s.setChipVariant v).draws = s.draws := rfl

@[simp] theorem State.setChipVariant_seqLog (s : State) (v : VariantCode) :
    (s.setChipVariant v).seqLog = s.seqLog := rfl

/-! ## `setEndAddress`: `END_ADDRESS <- a` -/

@[simp] theorem State.setEndAddress_chipVariant (s : State) (a : Addr) :
    (s.setEndAddress a).chipVariant = s.chipVariant := rfl

@[simp] theorem State.setEndAddress_endAddress (s : State) (a : Addr) :
    (s.setEndAddress a).endAddress = a := rfl

@[simp] theorem State.setEndAddress_volSrc (s : State) (a : Addr) :
    (s.setEndAddress a).volSrc = s.volSrc := rfl

@[simp] theorem State.setEndAddress_initialized (s : State) (a : Addr) :
    (s.setEndAddress a).initialized = s.initialized := rfl

@[simp] theorem State.setEndAddress_interruptDone (s : State) (a : Addr) :
    (s.setEndAddress a).interruptDone = s.interruptDone := rfl

@[simp] theorem State.setEndAddress_status1 (s : State) (a : Addr) :
    (s.setEndAddress a).status1 = s.status1 := rfl

@[simp] theorem State.setEndAddress_status2 (s : State) (a : Addr) :
    (s.setEndAddress a).status2 = s.status2 := rfl

@[simp] theorem State.setEndAddress_seq (s : State) (a : Addr) :
    (s.setEndAddress a).seq = s.seq := rfl

@[simp] theorem State.setEndAddress_timeoutCnt (s : State) (a : Addr) :
    (s.setEndAddress a).timeoutCnt = s.timeoutCnt := rfl

@[simp] theorem State.setEndAddress_apcTmp (s : State) (a : Addr) :
    (s.setEndAddress a).apcTmp = s.apcTmp := rfl

@[simp] theorem State.setEndAddress_txbuf (s : State) (a : Addr) :
    (s.setEndAddress a).txbuf = s.txbuf := rfl

@[simp] theorem State.setEndAddress_rxbuf (s : State) (a : Addr) :
    (s.setEndAddress a).rxbuf = s.rxbuf := rfl

@[simp] theorem State.setEndAddress_flen (s : State) (a : Addr) :
    (s.setEndAddress a).flen = s.flen := rfl

@[simp] theorem State.setEndAddress_result (s : State) (a : Addr) :
    (s.setEndAddress a).result = s.result := rfl

@[simp] theorem State.setEndAddress_rdata (s : State) (a : Addr) :
    (s.setEndAddress a).rdata = s.rdata := rfl

@[simp] theorem State.setEndAddress_bindingsOk (s : State) (a : Addr) :
    (s.setEndAddress a).bindingsOk = s.bindingsOk := rfl

@[simp] theorem State.setEndAddress_eventCbPresent (s : State) (a : Addr) :
    (s.setEndAddress a).eventCbPresent = s.eventCbPresent := rfl

@[simp] theorem State.setEndAddress_params (s : State) (a : Addr) :
    (s.setEndAddress a).params = s.params := rfl

@[simp] theorem State.setEndAddress_inputs (s : State) (a : Addr) :
    (s.setEndAddress a).inputs = s.inputs := rfl

@[simp] theorem State.setEndAddress_answers (s : State) (a : Addr) :
    (s.setEndAddress a).answers = s.answers := rfl

@[simp] theorem State.setEndAddress_hang (s : State) (a : Addr) :
    (s.setEndAddress a).hang = s.hang := rfl

@[simp] theorem State.setEndAddress_trace (s : State) (a : Addr) :
    (s.setEndAddress a).trace = s.trace := rfl

@[simp] theorem State.setEndAddress_draws (s : State) (a : Addr) :
    (s.setEndAddress a).draws = s.draws := rfl

@[simp] theorem State.setEndAddress_seqLog (s : State) (a : Addr) :
    (s.setEndAddress a).seqLog = s.seqLog := rfl

/-! ## `setVolSrc`: `VOL_SRC <- src` -/

@[simp] theorem State.setVolSrc_chipVariant (s : State) (src : VolSrc) :
    (s.setVolSrc src).chipVariant = s.chipVariant := rfl

@[simp] theorem State.setVolSrc_endAddress (s : State) (src : VolSrc) :
    (s.setVolSrc src).endAddress = s.endAddress := rfl

@[simp] theorem State.setVolSrc_volSrc (s : State) (src : VolSrc) :
    (s.setVolSrc src).volSrc = src := rfl

@[simp] theorem State.setVolSrc_initialized (s : State) (src : VolSrc) :
    (s.setVolSrc src).initialized = s.initialized := rfl

@[simp] theorem State.setVolSrc_interruptDone (s : State) (src : VolSrc) :
    (s.setVolSrc src).interruptDone = s.interruptDone := rfl

@[simp] theorem State.setVolSrc_status1 (s : State) (src : VolSrc) :
    (s.setVolSrc src).status1 = s.status1 := rfl

@[simp] theorem State.setVolSrc_status2 (s : State) (src : VolSrc) :
    (s.setVolSrc src).status2 = s.status2 := rfl

@[simp] theorem State.setVolSrc_seq (s : State) (src : VolSrc) :
    (s.setVolSrc src).seq = s.seq := rfl

@[simp] theorem State.setVolSrc_timeoutCnt (s : State) (src : VolSrc) :
    (s.setVolSrc src).timeoutCnt = s.timeoutCnt := rfl

@[simp] theorem State.setVolSrc_apcTmp (s : State) (src : VolSrc) :
    (s.setVolSrc src).apcTmp = s.apcTmp := rfl

@[simp] theorem State.setVolSrc_txbuf (s : State) (src : VolSrc) :
    (s.setVolSrc src).txbuf = s.txbuf := rfl

@[simp] theorem State.setVolSrc_rxbuf (s : State) (src : VolSrc) :
    (s.setVolSrc src).rxbuf = s.rxbuf := rfl

@[simp] theorem State.setVolSrc_flen (s : State) (src : VolSrc) :
    (s.setVolSrc src).flen = s.flen := rfl

@[simp] theorem State.setVolSrc_result (s : State) (src : VolSrc) :
    (s.setVolSrc src).result = s.result := rfl

@[simp] theorem State.setVolSrc_rdata (s : State) (src : VolSrc) :
    (s.setVolSrc src).rdata = s.rdata := rfl

@[simp] theorem State.setVolSrc_bindingsOk (s : State) (src : VolSrc) :
    (s.setVolSrc src).bindingsOk = s.bindingsOk := rfl

@[simp] theorem State.setVolSrc_eventCbPresent (s : State) (src : VolSrc) :
    (s.setVolSrc src).eventCbPresent = s.eventCbPresent := rfl

@[simp] theorem State.setVolSrc_params (s : State) (src : VolSrc) :
    (s.setVolSrc src).params = s.params := rfl

@[simp] theorem State.setVolSrc_inputs (s : State) (src : VolSrc) :
    (s.setVolSrc src).inputs = s.inputs := rfl

@[simp] theorem State.setVolSrc_answers (s : State) (src : VolSrc) :
    (s.setVolSrc src).answers = s.answers := rfl

@[simp] theorem State.setVolSrc_hang (s : State) (src : VolSrc) :
    (s.setVolSrc src).hang = s.hang := rfl

@[simp] theorem State.setVolSrc_trace (s : State) (src : VolSrc) :
    (s.setVolSrc src).trace = s.trace := rfl

@[simp] theorem State.setVolSrc_draws (s : State) (src : VolSrc) :
    (s.setVolSrc src).draws = s.draws := rfl

@[simp] theorem State.setVolSrc_seqLog (s : State) (src : VolSrc) :
    (s.setVolSrc src).seqLog = s.seqLog := rfl

/-! ## `setInitialized`: `INITIALIZED <- b` -/

@[simp] theorem State.setInitialized_chipVariant (s : State) (b : Bool) :
    (s.setInitialized b).chipVariant = s.chipVariant := rfl

@[simp] theorem State.setInitialized_endAddress (s : State) (b : Bool) :
    (s.setInitialized b).endAddress = s.endAddress := rfl

@[simp] theorem State.setInitialized_volSrc (s : State) (b : Bool) :
    (s.setInitialized b).volSrc = s.volSrc := rfl

@[simp] theorem State.setInitialized_initialized (s : State) (b : Bool) :
    (s.setInitialized b).initialized = b := rfl

@[simp] theorem State.setInitialized_interruptDone (s : State) (b : Bool) :
    (s.setInitialized b).interruptDone = s.interruptDone := rfl

@[simp] theorem State.setInitialized_status1 (s : State) (b : Bool) :
    (s.setInitialized b).status1 = s.status1 := rfl

@[simp] theorem State.setInitialized_status2 (s : State) (b : Bool) :
    (s.setInitialized b).status2 = s.status2 := rfl

@[simp] theorem State.setInitialized_seq (s : State) (b : Bool) :
    (s.setInitialized b).seq = s.seq := rfl

@[simp] theorem State.setInitialized_timeoutCnt (s : State) (b : Bool) :
    (s.setInitialized b).timeoutCnt = s.timeoutCnt := rfl

@[simp] theorem State.setInitialized_apcTmp (s : State) (b : Bool) :
    (s.setInitialized b).apcTmp = s.apcTmp := rfl

@[simp] theorem State.setInitialized_txbuf (s : State) (b : Bool) :
    (s.setInitialized b).txbuf = s.txbuf := rfl

@[simp] theorem State.setInitialized_rxbuf (s : State) (b : Bool) :
    (s.setInitialized b).rxbuf = s.rxbuf := rfl

@[simp] theorem State.setInitialized_flen (s : State) (b : Bool) :
    (s.setInitialized b).flen = s.flen := rfl

@[simp] theorem State.setInitialized_result (s : State) (b : Bool) :
    (s.setInitialized b).result = s.result := rfl

@[simp] theorem State.setInitialized_rdata (s : State) (b : Bool) :
    (s.setInitialized b).rdata = s.rdata := rfl

@[simp] theorem State.setInitialized_bindingsOk (s : State) (b : Bool) :
    (s.setInitialized b).bindingsOk = s.bindingsOk := rfl

@[simp] theorem State.setInitialized_eventCbPresent (s : State) (b : Bool) :
    (s.setInitialized b).eventCbPresent = s.eventCbPresent := rfl

@[simp] theorem State.setInitialized_params (s : State) (b : Bool) :
    (s.setInitialized b).params = s.params := rfl

@[simp] theorem State.setInitialized_inputs (s : State) (b : Bool) :
    (s.setInitialized b).inputs = s.inputs := rfl

@[simp] theorem State.setInitialized_answers (s : State) (b : Bool) :
    (s.setInitialized b).answers = s.answers := rfl

@[simp] theorem State.setInitialized_hang (s : State) (b : Bool) :
    (s.setInitialized b).hang = s.hang := rfl

@[simp] theorem State.setInitialized_trace (s : State) (b : Bool) :
    (s.setInitialized b).trace = s.trace := rfl

@[simp] theorem State.setInitialized_draws (s : State) (b : Bool) :
    (s.setInitialized b).draws = s.draws := rfl

@[simp] theorem State.setInitialized_seqLog (s : State) (b : Bool) :
    (s.setInitialized b).seqLog = s.seqLog := rfl

/-! ## `setInterruptDone`: `INTERRUPT_DONE <- b` -/

@[simp] theorem State.setInterruptDone_chipVariant (s : State) (b : Bool) :
    (s.setInterruptDone b).chipVariant = s.chipVariant := rfl

@[simp] theorem State.setInterruptDone_endAddress (s : State) (b : Bool) :
    (s.setInterruptDone b).endAddress = s.endAddress := rfl

@[simp] theorem State.setInterruptDone_volSrc (s : State) (b : Bool) :
    (s.setInterruptDone b).volSrc = s.volSrc := rfl

@[simp] theorem State.setInterruptDone_initialized (s : State) (b : Bool) :
    (s.setInterruptDone b).initialized = s.initialized := rfl

@[simp] theorem State.setInterruptDone_interruptDone (s : State) (b : Bool) :
    (s.setInterruptDone b).interruptDone = b := rfl

@[simp] theorem State.setInterruptDone_status1 (s : State) (b : Bool) :
    (s.setInterruptDone b).status1 = s.status1 := rfl

@[simp] theorem State.setInterruptDone_status2 (s : State) (b : Bool) :
    (s.setInterruptDone b).status2 = s.status2 := rfl

@[simp] theorem State.setInterruptDone_seq (s : State) (b : Bool) :
    (s.setInterruptDone b).seq = s.seq := rfl

@[simp] theorem State.setInterruptDone_timeoutCnt (s : State) (b : Bool) :
    (s.setInterruptDone b).timeoutCnt = s.timeoutCnt := rfl

@[simp] theorem State.setInterruptDone_apcTmp (s : State) (b : Bool) :
    (s.setInterruptDone b).apcTmp = s.apcTmp := rfl

@[simp] theorem State.setInterruptDone_txbuf (s : State) (b : Bool) :
    (s.setInterruptDone b).txbuf = s.txbuf := rfl

@[simp] theorem State.setInterruptDone_rxbuf (s : State) (b : Bool) :
    (s.setInterruptDone b).rxbuf = s.rxbuf := rfl

@[simp] theorem State.setInterruptDone_flen (s : State) (b : Bool) :
    (s.setInterruptDone b).flen = s.flen := rfl

@[simp] theorem State.setInterruptDone_result (s : State) (b : Bool) :
    (s.setInterruptDone b).result = s.result := rfl

@[simp] theorem State.setInterruptDone_rdata (s : State) (b : Bool) :
    (s.setInterruptDone b).rdata = s.rdata := rfl

@[simp] theorem State.setInterruptDone_bindingsOk (s : State) (b : Bool) :
    (s.setInterruptDone b).bindingsOk = s.bindingsOk := rfl

@[simp] theorem State.setInterruptDone_eventCbPresent (s : State) (b : Bool) :
    (s.setInterruptDone b).eventCbPresent = s.eventCbPresent := rfl

@[simp] theorem State.setInterruptDone_params (s : State) (b : Bool) :
    (s.setInterruptDone b).params = s.params := rfl

@[simp] theorem State.setInterruptDone_inputs (s : State) (b : Bool) :
    (s.setInterruptDone b).inputs = s.inputs := rfl

@[simp] theorem State.setInterruptDone_answers (s : State) (b : Bool) :
    (s.setInterruptDone b).answers = s.answers := rfl

@[simp] theorem State.setInterruptDone_hang (s : State) (b : Bool) :
    (s.setInterruptDone b).hang = s.hang := rfl

@[simp] theorem State.setInterruptDone_trace (s : State) (b : Bool) :
    (s.setInterruptDone b).trace = s.trace := rfl

@[simp] theorem State.setInterruptDone_draws (s : State) (b : Bool) :
    (s.setInterruptDone b).draws = s.draws := rfl

@[simp] theorem State.setInterruptDone_seqLog (s : State) (b : Bool) :
    (s.setInterruptDone b).seqLog = s.seqLog := rfl

/-! ## `setHang`: the port call that never returns -/

@[simp] theorem State.setHang_chipVariant (s : State) (h : Option Nat) :
    (s.setHang h).chipVariant = s.chipVariant := rfl

@[simp] theorem State.setHang_endAddress (s : State) (h : Option Nat) :
    (s.setHang h).endAddress = s.endAddress := rfl

@[simp] theorem State.setHang_volSrc (s : State) (h : Option Nat) :
    (s.setHang h).volSrc = s.volSrc := rfl

@[simp] theorem State.setHang_initialized (s : State) (h : Option Nat) :
    (s.setHang h).initialized = s.initialized := rfl

@[simp] theorem State.setHang_interruptDone (s : State) (h : Option Nat) :
    (s.setHang h).interruptDone = s.interruptDone := rfl

@[simp] theorem State.setHang_status1 (s : State) (h : Option Nat) :
    (s.setHang h).status1 = s.status1 := rfl

@[simp] theorem State.setHang_status2 (s : State) (h : Option Nat) :
    (s.setHang h).status2 = s.status2 := rfl

@[simp] theorem State.setHang_seq (s : State) (h : Option Nat) :
    (s.setHang h).seq = s.seq := rfl

@[simp] theorem State.setHang_timeoutCnt (s : State) (h : Option Nat) :
    (s.setHang h).timeoutCnt = s.timeoutCnt := rfl

@[simp] theorem State.setHang_apcTmp (s : State) (h : Option Nat) :
    (s.setHang h).apcTmp = s.apcTmp := rfl

@[simp] theorem State.setHang_txbuf (s : State) (h : Option Nat) :
    (s.setHang h).txbuf = s.txbuf := rfl

@[simp] theorem State.setHang_rxbuf (s : State) (h : Option Nat) :
    (s.setHang h).rxbuf = s.rxbuf := rfl

@[simp] theorem State.setHang_flen (s : State) (h : Option Nat) :
    (s.setHang h).flen = s.flen := rfl

@[simp] theorem State.setHang_result (s : State) (h : Option Nat) :
    (s.setHang h).result = s.result := rfl

@[simp] theorem State.setHang_rdata (s : State) (h : Option Nat) :
    (s.setHang h).rdata = s.rdata := rfl

@[simp] theorem State.setHang_bindingsOk (s : State) (h : Option Nat) :
    (s.setHang h).bindingsOk = s.bindingsOk := rfl

@[simp] theorem State.setHang_eventCbPresent (s : State) (h : Option Nat) :
    (s.setHang h).eventCbPresent = s.eventCbPresent := rfl

@[simp] theorem State.setHang_params (s : State) (h : Option Nat) :
    (s.setHang h).params = s.params := rfl

@[simp] theorem State.setHang_inputs (s : State) (h : Option Nat) :
    (s.setHang h).inputs = s.inputs := rfl

@[simp] theorem State.setHang_answers (s : State) (h : Option Nat) :
    (s.setHang h).answers = s.answers := rfl

@[simp] theorem State.setHang_hang (s : State) (h : Option Nat) :
    (s.setHang h).hang = h := rfl

@[simp] theorem State.setHang_trace (s : State) (h : Option Nat) :
    (s.setHang h).trace = s.trace := rfl

@[simp] theorem State.setHang_draws (s : State) (h : Option Nat) :
    (s.setHang h).draws = s.draws := rfl

@[simp] theorem State.setHang_seqLog (s : State) (h : Option Nat) :
    (s.setHang h).seqLog = s.seqLog := rfl

/-! ## `emit`: one more event -/

@[simp] theorem State.emit_chipVariant (s : State) (e : Event) :
    (s.emit e).chipVariant = s.chipVariant := rfl

@[simp] theorem State.emit_endAddress (s : State) (e : Event) :
    (s.emit e).endAddress = s.endAddress := rfl

@[simp] theorem State.emit_volSrc (s : State) (e : Event) :
    (s.emit e).volSrc = s.volSrc := rfl

@[simp] theorem State.emit_initialized (s : State) (e : Event) :
    (s.emit e).initialized = s.initialized := rfl

@[simp] theorem State.emit_interruptDone (s : State) (e : Event) :
    (s.emit e).interruptDone = s.interruptDone := rfl

@[simp] theorem State.emit_status1 (s : State) (e : Event) :
    (s.emit e).status1 = s.status1 := rfl

@[simp] theorem State.emit_status2 (s : State) (e : Event) :
    (s.emit e).status2 = s.status2 := rfl

@[simp] theorem State.emit_seq (s : State) (e : Event) :
    (s.emit e).seq = s.seq := rfl

@[simp] theorem State.emit_timeoutCnt (s : State) (e : Event) :
    (s.emit e).timeoutCnt = s.timeoutCnt := rfl

@[simp] theorem State.emit_apcTmp (s : State) (e : Event) :
    (s.emit e).apcTmp = s.apcTmp := rfl

@[simp] theorem State.emit_txbuf (s : State) (e : Event) :
    (s.emit e).txbuf = s.txbuf := rfl

@[simp] theorem State.emit_rxbuf (s : State) (e : Event) :
    (s.emit e).rxbuf = s.rxbuf := rfl

@[simp] theorem State.emit_flen (s : State) (e : Event) :
    (s.emit e).flen = s.flen := rfl

@[simp] theorem State.emit_result (s : State) (e : Event) :
    (s.emit e).result = s.result := rfl

@[simp] theorem State.emit_rdata (s : State) (e : Event) :
    (s.emit e).rdata = s.rdata := rfl

@[simp] theorem State.emit_bindingsOk (s : State) (e : Event) :
    (s.emit e).bindingsOk = s.bindingsOk := rfl

@[simp] theorem State.emit_eventCbPresent (s : State) (e : Event) :
    (s.emit e).eventCbPresent = s.eventCbPresent := rfl

@[simp] theorem State.emit_params (s : State) (e : Event) :
    (s.emit e).params = s.params := rfl

@[simp] theorem State.emit_inputs (s : State) (e : Event) :
    (s.emit e).inputs = s.inputs := rfl

@[simp] theorem State.emit_answers (s : State) (e : Event) :
    (s.emit e).answers = s.answers := rfl

@[simp] theorem State.emit_hang (s : State) (e : Event) :
    (s.emit e).hang = s.hang := rfl

@[simp] theorem State.emit_trace (s : State) (e : Event) :
    (s.emit e).trace = s.trace ++ [e] := rfl

@[simp] theorem State.emit_draws (s : State) (e : Event) :
    (s.emit e).draws = s.draws := rfl

@[simp] theorem State.emit_seqLog (s : State) (e : Event) :
    (s.emit e).seqLog = s.seqLog := rfl

/-! ## `dropAnswer`: the answer of a port call is taken -/

@[simp] theorem State.dropAnswer_chipVariant (s : State) :
    (s.dropAnswer).chipVariant = s.chipVariant := by
  unfold State.dropAnswer; split <;> simp_all

@[simp] theorem State.dropAnswer_endAddress (s : State) :
    (s.dropAnswer).endAddress = s.endAddress := by
  unfold State.dropAnswer; split <;> simp_all

@[simp] theorem State.dropAnswer_volSrc (s : State) :
    (s.dropAnswer).volSrc = s.volSrc := by
  unfold State.dropAnswer; split <;> simp_all

@[simp] theorem State.dropAnswer_initialized (s : State) :
    (s.dropAnswer).initialized = s.initialized := by
  unfold State.dropAnswer; split <;> simp_all

@[simp] theorem State.dropAnswer_interruptDone (s : State) :
    (s.dropAnswer).interruptDone = s.interruptDone := by
  unfold State.dropAnswer; split <;> simp_all

@[simp] theorem State.dropAnswer_status1 (s : State) :
    (s.dropAnswer).status1 = s.status1 := by
  unfold State.dropAnswer; split <;> simp_all

@[simp] theorem State.dropAnswer_status2 (s : State) :
    (s.dropAnswer).status2 = s.status2 := by
  unfold State.dropAnswer; split <;> simp_all

@[simp] theorem State.dropAnswer_seq (s : State) :
    (s.dropAnswer).seq = s.seq := by
  unfold State.dropAnswer; split <;> simp_all

@[simp] theorem State.dropAnswer_timeoutCnt (s : State) :
    (s.dropAnswer).timeoutCnt = s.timeoutCnt := by
  unfold State.dropAnswer; split <;> simp_all

@[simp] theorem State.dropAnswer_apcTmp (s : State) :
    (s.dropAnswer).apcTmp = s.apcTmp := by
  unfold State.dropAnswer; split <;> simp_all

@[simp] theorem State.dropAnswer_txbuf (s : State) :
    (s.dropAnswer).txbuf = s.txbuf := by
  unfold State.dropAnswer; split <;> simp_all

@[simp] theorem State.dropAnswer_rxbuf (s : State) :
    (s.dropAnswer).rxbuf = s.rxbuf := by
  unfold State.dropAnswer; split <;> simp_all

@[simp] theorem State.dropAnswer_flen (s : State) :
    (s.dropAnswer).flen = s.flen := by
  unfold State.dropAnswer; split <;> simp_all

@[simp] theorem State.dropAnswer_result (s : State) :
    (s.dropAnswer).result = s.result := by
  unfold State.dropAnswer; split <;> simp_all

@[simp] theorem State.dropAnswer_rdata (s : State) :
    (s.dropAnswer).rdata = s.rdata := by
  unfold State.dropAnswer; split <;> simp_all

@[simp] theorem State.dropAnswer_bindingsOk (s : State) :
    (s.dropAnswer).bindingsOk = s.bindingsOk := by
  unfold State.dropAnswer; split <;> simp_all

@[simp] theorem State.dropAnswer_eventCbPresent (s : State) :
    (s.dropAnswer).eventCbPresent = s.eventCbPresent := by
  unfold State.dropAnswer; split <;> simp_all

@[simp] theorem State.dropAnswer_params (s : State) :
    (s.dropAnswer).params = s.params := by
  unfold State.dropAnswer; split <;> simp_all

@[simp] theorem State.dropAnswer_inputs (s : State) :
    (s.dropAnswer).inputs = s.inputs := by
  unfold State.dropAnswer; split <;> simp_all

@[simp] theorem State.dropAnswer_answers (s : State) :
    (s.dropAnswer).answers = s.answers.drop 1 := by
  unfold State.dropAnswer; split <;> simp_all

@[simp] theorem State.dropAnswer_hang (s : State) :
    (s.dropAnswer).hang = s.hang := by
  unfold State.dropAnswer; split <;> simp_all

@[simp] theorem State.dropAnswer_trace (s : State) :
    (s.dropAnswer).trace = s.trace := by
  unfold State.dropAnswer; split <;> simp_all

@[simp] theorem State.dropAnswer_seqLog (s : State) :
    (s.dropAnswer).seqLog = s.seqLog := by
  unfold State.dropAnswer; split <;> simp_all

/-! ## `loadFrame`: the frame encoder -/

@[simp] theorem State.loadFrame_chipVariant (s : State) (tx : List Byte) :
    (s.loadFrame tx).chipVariant = s.chipVariant := rfl

@[simp] theorem State.loadFrame_endAddress (s : State) (tx : List Byte) :
    (s.loadFrame tx).endAddress = s.endAddress := rfl

@[simp] theorem State.loadFrame_volSrc (s : State) (tx : List Byte) :
    (s.loadFrame tx).volSrc = s.volSrc := rfl

@[simp] theorem State.loadFrame_initialized (s : State) (tx : List Byte) :
    (s.loadFrame tx).initialized = s.initialized := rfl

@[simp] theorem State.loadFrame_interruptDone (s : State) (tx : List Byte) :
    (s.loadFrame tx).interruptDone = s.interruptDone := rfl

@[simp] theorem State.loadFrame_status1 (s : State) (tx : List Byte) :
    (s.loadFrame tx).status1 = s.status1 := rfl

@[simp] theorem State.loadFrame_status2 (s : State) (tx : List Byte) :
    (s.loadFrame tx).status2 = s.status2 := rfl

@[simp] theorem State.loadFrame_seq (s : State) (tx : List Byte) :
    (s.loadFrame tx).seq = s.seq := rfl

@[simp] theorem State.loadFrame_timeoutCnt (s : State) (tx : List Byte) :
    (s.loadFrame tx).timeoutCnt = s.timeoutCnt := rfl

@[simp] theorem State.loadFrame_apcTmp (s : State) (tx : List Byte) :
    (s.loadFrame tx).apcTmp = s.apcTmp := rfl

@[simp] theorem State.loadFrame_txbuf (s : State) (tx : List Byte) :
    (s.loadFrame tx).txbuf = overlay tx.length tx s.txbuf := rfl

@[simp] theorem State.loadFrame_rxbuf (s : State) (tx : List Byte) :
    (s.loadFrame tx).rxbuf = s.rxbuf := rfl

@[simp] theorem State.loadFrame_flen (s : State) (tx : List Byte) :
    (s.loadFrame tx).flen = BitVec.ofNat 3 tx.length := rfl

@[simp] theorem State.loadFrame_result (s : State) (tx : List Byte) :
    (s.loadFrame tx).result = s.result := rfl

@[simp] theorem State.loadFrame_rdata (s : State) (tx : List Byte) :
    (s.loadFrame tx).rdata = s.rdata := rfl

@[simp] theorem State.loadFrame_bindingsOk (s : State) (tx : List Byte) :
    (s.loadFrame tx).bindingsOk = s.bindingsOk := rfl

@[simp] theorem State.loadFrame_eventCbPresent (s : State) (tx : List Byte) :
    (s.loadFrame tx).eventCbPresent = s.eventCbPresent := rfl

@[simp] theorem State.loadFrame_params (s : State) (tx : List Byte) :
    (s.loadFrame tx).params = s.params := rfl

@[simp] theorem State.loadFrame_inputs (s : State) (tx : List Byte) :
    (s.loadFrame tx).inputs = s.inputs := rfl

@[simp] theorem State.loadFrame_answers (s : State) (tx : List Byte) :
    (s.loadFrame tx).answers = s.answers := rfl

@[simp] theorem State.loadFrame_hang (s : State) (tx : List Byte) :
    (s.loadFrame tx).hang = s.hang := rfl

@[simp] theorem State.loadFrame_trace (s : State) (tx : List Byte) :
    (s.loadFrame tx).trace = s.trace := rfl

@[simp] theorem State.loadFrame_draws (s : State) (tx : List Byte) :
    (s.loadFrame tx).draws = s.draws := rfl

@[simp] theorem State.loadFrame_seqLog (s : State) (tx : List Byte) :
    (s.loadFrame tx).seqLog = s.seqLog := rfl

/-! ## `receive`: the received bytes -/

@[simp] theorem State.receive_chipVariant (s : State) (wrx : FrameBuffer) :
    (s.receive wrx).chipVariant = s.chipVariant := rfl

@[simp] theorem State.receive_endAddress (s : State) (wrx : FrameBuffer) :
    (s.receive wrx).endAddress = s.endAddress := rfl

@[simp] theorem State.receive_volSrc (s : State) (wrx : FrameBuffer) :
    (s.receive wrx).volSrc = s.volSrc := rfl

@[simp] theorem State.receive_initialized (s : State) (wrx : FrameBuffer) :
    (s.receive wrx).initialized = s.initialized := rfl

@[simp] theorem State.receive_interruptDone (s : State) (wrx : FrameBuffer) :
    (s.receive wrx).interruptDone = s.interruptDone := rfl

@[simp] theorem State.receive_status1 (s : State) (wrx : FrameBuffer) :
    (s.receive wrx).status1 = s.status1 := rfl

@[simp] theorem State.receive_status2 (s : State) (wrx : FrameBuffer) :
    (s.receive wrx).status2 = s.status2 := rfl

@[simp] theorem State.receive_seq (s : State) (wrx : FrameBuffer) :
    (s.receive wrx).seq = s.seq := rfl

@[simp] theorem State.receive_timeoutCnt (s : State) (wrx : FrameBuffer) :
    (s.receive wrx).timeoutCnt = s.timeoutCnt := rfl

@[simp] theorem State.receive_apcTmp (s : State) (wrx : FrameBuffer) :
    (s.receive wrx).apcTmp = s.apcTmp := rfl

@[simp] theorem State.receive_txbuf (s : State) (wrx : FrameBuffer) :
    (s.receive wrx).txbuf = s.txbuf := rfl

@[simp] theorem State.receive_rxbuf (s : State) (wrx : FrameBuffer) :
    (s.receive wrx).rxbuf = overlay s.flen.toNat (wrx.toList.map bitrev8) s.rxbuf := rfl

@[simp] theorem State.receive_flen (s : State) (wrx : FrameBuffer) :
    (s.receive wrx).flen = s.flen := rfl

@[simp] theorem State.receive_result (s : State) (wrx : FrameBuffer) :
    (s.receive wrx).result = s.result := rfl

@[simp] theorem State.receive_rdata (s : State) (wrx : FrameBuffer) :
    (s.receive wrx).rdata = s.rdata := rfl

@[simp] theorem State.receive_bindingsOk (s : State) (wrx : FrameBuffer) :
    (s.receive wrx).bindingsOk = s.bindingsOk := rfl

@[simp] theorem State.receive_eventCbPresent (s : State) (wrx : FrameBuffer) :
    (s.receive wrx).eventCbPresent = s.eventCbPresent := rfl

@[simp] theorem State.receive_params (s : State) (wrx : FrameBuffer) :
    (s.receive wrx).params = s.params := rfl

@[simp] theorem State.receive_inputs (s : State) (wrx : FrameBuffer) :
    (s.receive wrx).inputs = s.inputs := rfl

@[simp] theorem State.receive_answers (s : State) (wrx : FrameBuffer) :
    (s.receive wrx).answers = s.answers := rfl

@[simp] theorem State.receive_hang (s : State) (wrx : FrameBuffer) :
    (s.receive wrx).hang = s.hang := rfl

@[simp] theorem State.receive_trace (s : State) (wrx : FrameBuffer) :
    (s.receive wrx).trace = s.trace := rfl

@[simp] theorem State.receive_draws (s : State) (wrx : FrameBuffer) :
    (s.receive wrx).draws = s.draws := rfl

@[simp] theorem State.receive_seqLog (s : State) (wrx : FrameBuffer) :
    (s.receive wrx).seqLog = s.seqLog := rfl

/-! ## `latchStatus`: the unpacker -/

@[simp] theorem State.latchStatus_chipVariant (s : State) :
    (s.latchStatus).chipVariant = s.chipVariant := rfl

@[simp] theorem State.latchStatus_endAddress (s : State) :
    (s.latchStatus).endAddress = s.endAddress := rfl

@[simp] theorem State.latchStatus_volSrc (s : State) :
    (s.latchStatus).volSrc = s.volSrc := rfl

@[simp] theorem State.latchStatus_initialized (s : State) :
    (s.latchStatus).initialized = s.initialized := rfl

@[simp] theorem State.latchStatus_interruptDone (s : State) :
    (s.latchStatus).interruptDone = s.interruptDone := rfl

@[simp] theorem State.latchStatus_status1 (s : State) :
    (s.latchStatus).status1 = rxStatus1 s.rxbuf := rfl

@[simp] theorem State.latchStatus_status2 (s : State) :
    (s.latchStatus).status2 = rxStatus2 s.rxbuf := rfl

@[simp] theorem State.latchStatus_seq (s : State) :
    (s.latchStatus).seq = s.seq := rfl

@[simp] theorem State.latchStatus_timeoutCnt (s : State) :
    (s.latchStatus).timeoutCnt = s.timeoutCnt := rfl

@[simp] theorem State.latchStatus_apcTmp (s : State) :
    (s.latchStatus).apcTmp = s.apcTmp := rfl

@[simp] theorem State.latchStatus_txbuf (s : State) :
    (s.latchStatus).txbuf = s.txbuf := rfl

@[simp] theorem State.latchStatus_rxbuf (s : State) :
    (s.latchStatus).rxbuf = s.rxbuf := rfl

@[simp] theorem State.latchStatus_flen (s : State) :
    (s.latchStatus).flen = s.flen := rfl

@[simp] theorem State.latchStatus_result (s : State) :
    (s.latchStatus).result = s.result := rfl

@[simp] theorem State.latchStatus_rdata (s : State) :
    (s.latchStatus).rdata = s.rdata := rfl

@[simp] theorem State.latchStatus_bindingsOk (s : State) :
    (s.latchStatus).bindingsOk = s.bindingsOk := rfl

@[simp] theorem State.latchStatus_eventCbPresent (s : State) :
    (s.latchStatus).eventCbPresent = s.eventCbPresent := rfl

@[simp] theorem State.latchStatus_params (s : State) :
    (s.latchStatus).params = s.params := rfl

@[simp] theorem State.latchStatus_inputs (s : State) :
    (s.latchStatus).inputs = s.inputs := rfl

@[simp] theorem State.latchStatus_answers (s : State) :
    (s.latchStatus).answers = s.answers := rfl

@[simp] theorem State.latchStatus_hang (s : State) :
    (s.latchStatus).hang = s.hang := rfl

@[simp] theorem State.latchStatus_trace (s : State) :
    (s.latchStatus).trace = s.trace := rfl

@[simp] theorem State.latchStatus_draws (s : State) :
    (s.latchStatus).draws = s.draws := rfl

@[simp] theorem State.latchStatus_seqLog (s : State) :
    (s.latchStatus).seqLog = s.seqLog := rfl

/-! ## `freeRdata`: no data -/

@[simp] theorem State.freeRdata_chipVariant (s : State) :
    (s.freeRdata).chipVariant = s.chipVariant := rfl

@[simp] theorem State.freeRdata_endAddress (s : State) :
    (s.freeRdata).endAddress = s.endAddress := rfl

@[simp] theorem State.freeRdata_volSrc (s : State) :
    (s.freeRdata).volSrc = s.volSrc := rfl

@[simp] theorem State.freeRdata_initialized (s : State) :
    (s.freeRdata).initialized = s.initialized := rfl

@[simp] theorem State.freeRdata_interruptDone (s : State) :
    (s.freeRdata).interruptDone = s.interruptDone := rfl

@[simp] theorem State.freeRdata_status1 (s : State) :
    (s.freeRdata).status1 = s.status1 := rfl

@[simp] theorem State.freeRdata_status2 (s : State) :
    (s.freeRdata).status2 = s.status2 := rfl

@[simp] theorem State.freeRdata_seq (s : State) :
    (s.freeRdata).seq = s.seq := rfl

@[simp] theorem State.freeRdata_timeoutCnt (s : State) :
    (s.freeRdata).timeoutCnt = s.timeoutCnt := rfl

@[simp] theorem State.freeRdata_apcTmp (s : State) :
    (s.freeRdata).apcTmp = s.apcTmp := rfl

@[simp] theorem State.freeRdata_txbuf (s : State) :
    (s.freeRdata).txbuf = s.txbuf := rfl

@[simp] theorem State.freeRdata_rxbuf (s : State) :
    (s.freeRdata).rxbuf = s.rxbuf := rfl

@[simp] theorem State.freeRdata_flen (s : State) :
    (s.freeRdata).flen = s.flen := rfl

@[simp] theorem State.freeRdata_result (s : State) :
    (s.freeRdata).result = s.result := rfl

@[simp] theorem State.freeRdata_rdata (s : State) :
    (s.freeRdata).rdata = Config.freeData s.draws := rfl

@[simp] theorem State.freeRdata_bindingsOk (s : State) :
    (s.freeRdata).bindingsOk = s.bindingsOk := rfl

@[simp] theorem State.freeRdata_eventCbPresent (s : State) :
    (s.freeRdata).eventCbPresent = s.eventCbPresent := rfl

@[simp] theorem State.freeRdata_params (s : State) :
    (s.freeRdata).params = s.params := rfl

@[simp] theorem State.freeRdata_inputs (s : State) :
    (s.freeRdata).inputs = s.inputs := rfl

@[simp] theorem State.freeRdata_answers (s : State) :
    (s.freeRdata).answers = s.answers := rfl

@[simp] theorem State.freeRdata_hang (s : State) :
    (s.freeRdata).hang = s.hang := rfl

@[simp] theorem State.freeRdata_trace (s : State) :
    (s.freeRdata).trace = s.trace := rfl

@[simp] theorem State.freeRdata_draws (s : State) :
    (s.freeRdata).draws = s.draws + 1 := rfl

@[simp] theorem State.freeRdata_seqLog (s : State) :
    (s.freeRdata).seqLog = s.seqLog := rfl

/-! ## `backToIssued`: back from a terminal state -/

@[simp] theorem State.backToIssued_chipVariant (s : State) :
    (s.backToIssued).chipVariant = s.chipVariant := by
  unfold State.backToIssued; split <;> rfl

@[simp] theorem State.backToIssued_endAddress (s : State) :
    (s.backToIssued).endAddress = s.endAddress := by
  unfold State.backToIssued; split <;> rfl

@[simp] theorem State.backToIssued_volSrc (s : State) :
    (s.backToIssued).volSrc = s.volSrc := by
  unfold State.backToIssued; split <;> rfl

@[simp] theorem State.backToIssued_initialized (s : State) :
    (s.backToIssued).initialized = s.initialized := by
  unfold State.backToIssued; split <;> rfl

@[simp] theorem State.backToIssued_interruptDone (s : State) :
    (s.backToIssued).interruptDone = s.interruptDone := by
  unfold State.backToIssued; split <;> rfl

@[simp] theorem State.backToIssued_status1 (s : State) :
    (s.backToIssued).status1 = s.status1 := by
  unfold State.backToIssued; split <;> rfl

@[simp] theorem State.backToIssued_status2 (s : State) :
    (s.backToIssued).status2 = s.status2 := by
  unfold State.backToIssued; split <;> rfl

@[simp] theorem State.backToIssued_timeoutCnt (s : State) :
    (s.backToIssued).timeoutCnt = s.timeoutCnt := by
  unfold State.backToIssued; split <;> rfl

@[simp] theorem State.backToIssued_apcTmp (s : State) :
    (s.backToIssued).apcTmp = s.apcTmp := by
  unfold State.backToIssued; split <;> rfl

@[simp] theorem State.backToIssued_txbuf (s : State) :
    (s.backToIssued).txbuf = s.txbuf := by
  unfold State.backToIssued; split <;> rfl

@[simp] theorem State.backToIssued_rxbuf (s : State) :
    (s.backToIssued).rxbuf = s.rxbuf := by
  unfold State.backToIssued; split <;> rfl

@[simp] theorem State.backToIssued_flen (s : State) :
    (s.backToIssued).flen = s.flen := by
  unfold State.backToIssued; split <;> rfl

@[simp] theorem State.backToIssued_result (s : State) :
    (s.backToIssued).result = s.result := by
  unfold State.backToIssued; split <;> rfl

@[simp] theorem State.backToIssued_rdata (s : State) :
    (s.backToIssued).rdata = s.rdata := by
  unfold State.backToIssued; split <;> rfl

@[simp] theorem State.backToIssued_bindingsOk (s : State) :
    (s.backToIssued).bindingsOk = s.bindingsOk := by
  unfold State.backToIssued; split <;> rfl

@[simp] theorem State.backToIssued_eventCbPresent (s : State) :
    (s.backToIssued).eventCbPresent = s.eventCbPresent := by
  unfold State.backToIssued; split <;> rfl

@[simp] theorem State.backToIssued_params (s : State) :
    (s.backToIssued).params = s.params := by
  unfold State.backToIssued; split <;> rfl

@[simp] theorem State.backToIssued_inputs (s : State) :
    (s.backToIssued).inputs = s.inputs := by
  unfold State.backToIssued; split <;> rfl

@[simp] theorem State.backToIssued_answers (s : State) :
    (s.backToIssued).answers = s.answers := by
  unfold State.backToIssued; split <;> rfl

@[simp] theorem State.backToIssued_hang (s : State) :
    (s.backToIssued).hang = s.hang := by
  unfold State.backToIssued; split <;> rfl

@[simp] theorem State.backToIssued_trace (s : State) :
    (s.backToIssued).trace = s.trace := by
  unfold State.backToIssued; split <;> rfl

@[simp] theorem State.backToIssued_draws (s : State) :
    (s.backToIssued).draws = s.draws := by
  unfold State.backToIssued; split <;> rfl

/-! ## `proceed`: from a wait that succeeded to the next step -/

@[simp] theorem State.proceed_chipVariant (s : State) :
    (s.proceed).chipVariant = s.chipVariant := by
  unfold State.proceed; split <;> rfl

@[simp] theorem State.proceed_endAddress (s : State) :
    (s.proceed).endAddress = s.endAddress := by
  unfold State.proceed; split <;> rfl

@[simp] theorem State.proceed_volSrc (s : State) :
    (s.proceed).volSrc = s.volSrc := by
  unfold State.proceed; split <;> rfl

@[simp] theorem State.proceed_initialized (s : State) :
    (s.proceed).initialized = s.initialized := by
  unfold State.proceed; split <;> rfl

@[simp] theorem State.proceed_interruptDone (s : State) :
    (s.proceed).interruptDone = s.interruptDone := by
  unfold State.proceed; split <;> rfl

@[simp] theorem State.proceed_status1 (s : State) :
    (s.proceed).status1 = s.status1 := by
  unfold State.proceed; split <;> rfl

@[simp] theorem State.proceed_status2 (s : State) :
    (s.proceed).status2 = s.status2 := by
  unfold State.proceed; split <;> rfl

@[simp] theorem State.proceed_timeoutCnt (s : State) :
    (s.proceed).timeoutCnt = s.timeoutCnt := by
  unfold State.proceed; split <;> rfl

@[simp] theorem State.proceed_apcTmp (s : State) :
    (s.proceed).apcTmp = s.apcTmp := by
  unfold State.proceed; split <;> rfl

@[simp] theorem State.proceed_txbuf (s : State) :
    (s.proceed).txbuf = s.txbuf := by
  unfold State.proceed; split <;> rfl

@[simp] theorem State.proceed_rxbuf (s : State) :
    (s.proceed).rxbuf = s.rxbuf := by
  unfold State.proceed; split <;> rfl

@[simp] theorem State.proceed_flen (s : State) :
    (s.proceed).flen = s.flen := by
  unfold State.proceed; split <;> rfl

@[simp] theorem State.proceed_result (s : State) :
    (s.proceed).result = s.result := by
  unfold State.proceed; split <;> rfl

@[simp] theorem State.proceed_rdata (s : State) :
    (s.proceed).rdata = s.rdata := by
  unfold State.proceed; split <;> rfl

@[simp] theorem State.proceed_bindingsOk (s : State) :
    (s.proceed).bindingsOk = s.bindingsOk := by
  unfold State.proceed; split <;> rfl

@[simp] theorem State.proceed_eventCbPresent (s : State) :
    (s.proceed).eventCbPresent = s.eventCbPresent := by
  unfold State.proceed; split <;> rfl

@[simp] theorem State.proceed_params (s : State) :
    (s.proceed).params = s.params := by
  unfold State.proceed; split <;> rfl

@[simp] theorem State.proceed_inputs (s : State) :
    (s.proceed).inputs = s.inputs := by
  unfold State.proceed; split <;> rfl

@[simp] theorem State.proceed_answers (s : State) :
    (s.proceed).answers = s.answers := by
  unfold State.proceed; split <;> rfl

@[simp] theorem State.proceed_hang (s : State) :
    (s.proceed).hang = s.hang := by
  unfold State.proceed; split <;> rfl

@[simp] theorem State.proceed_trace (s : State) :
    (s.proceed).trace = s.trace := by
  unfold State.proceed; split <;> rfl

@[simp] theorem State.proceed_draws (s : State) :
    (s.proceed).draws = s.draws := by
  unfold State.proceed; split <;> rfl

/-! ## `enter`: a terminal state is entered -/

@[simp] theorem State.enter_chipVariant (s : State) (q : SeqState) :
    (s.enter q).chipVariant = s.chipVariant := by
  unfold State.enter; split <;> simp_all

@[simp] theorem State.enter_endAddress (s : State) (q : SeqState) :
    (s.enter q).endAddress = s.endAddress := by
  unfold State.enter; split <;> simp_all

@[simp] theorem State.enter_volSrc (s : State) (q : SeqState) :
    (s.enter q).volSrc = s.volSrc := by
  unfold State.enter; split <;> simp_all

@[simp] theorem State.enter_initialized (s : State) (q : SeqState) :
    (s.enter q).initialized = s.initialized := by
  unfold State.enter; split <;> simp_all

@[simp] theorem State.enter_interruptDone (s : State) (q : SeqState) :
    (s.enter q).interruptDone = s.interruptDone := by
  unfold State.enter; split <;> simp_all

@[simp] theorem State.enter_status1 (s : State) (q : SeqState) :
    (s.enter q).status1 = s.status1 := by
  unfold State.enter; split <;> simp_all

@[simp] theorem State.enter_status2 (s : State) (q : SeqState) :
    (s.enter q).status2 = s.status2 := by
  unfold State.enter; split <;> simp_all

@[simp] theorem State.enter_seq (s : State) (q : SeqState) :
    (s.enter q).seq = q := by
  unfold State.enter; split <;> simp_all

@[simp] theorem State.enter_timeoutCnt (s : State) (q : SeqState) :
    (s.enter q).timeoutCnt = s.timeoutCnt := by
  unfold State.enter; split <;> simp_all

@[simp] theorem State.enter_apcTmp (s : State) (q : SeqState) :
    (s.enter q).apcTmp = s.apcTmp := by
  unfold State.enter; split <;> simp_all

@[simp] theorem State.enter_txbuf (s : State) (q : SeqState) :
    (s.enter q).txbuf = s.txbuf := by
  unfold State.enter; split <;> simp_all

@[simp] theorem State.enter_rxbuf (s : State) (q : SeqState) :
    (s.enter q).rxbuf = s.rxbuf := by
  unfold State.enter; split <;> simp_all

@[simp] theorem State.enter_flen (s : State) (q : SeqState) :
    (s.enter q).flen = s.flen := by
  unfold State.enter; split <;> simp_all

@[simp] theorem State.enter_result (s : State) (q : SeqState) :
    (s.enter q).result = s.result := by
  unfold State.enter; split <;> simp_all

@[simp] theorem State.enter_rdata (s : State) (q : SeqState) :
    (s.enter q).rdata = s.rdata := by
  unfold State.enter; split <;> simp_all

@[simp] theorem State.enter_bindingsOk (s : State) (q : SeqState) :
    (s.enter q).bindingsOk = s.bindingsOk := by
  unfold State.enter; split <;> simp_all

@[simp] theorem State.enter_eventCbPresent (s : State) (q : SeqState) :
    (s.enter q).eventCbPresent = s.eventCbPresent := by
  unfold State.enter; split <;> simp_all

@[simp] theorem State.enter_params (s : State) (q : SeqState) :
    (s.enter q).params = s.params := by
  unfold State.enter; split <;> simp_all

@[simp] theorem State.enter_inputs (s : State) (q : SeqState) :
    (s.enter q).inputs = s.inputs := by
  unfold State.enter; split <;> simp_all

@[simp] theorem State.enter_answers (s : State) (q : SeqState) :
    (s.enter q).answers = s.answers := by
  unfold State.enter; split <;> simp_all

@[simp] theorem State.enter_hang (s : State) (q : SeqState) :
    (s.enter q).hang = s.hang := by
  unfold State.enter; split <;> simp_all

@[simp] theorem State.enter_trace (s : State) (q : SeqState) :
    (s.enter q).trace = s.trace := by
  unfold State.enter; split <;> simp_all

@[simp] theorem State.enter_draws (s : State) (q : SeqState) :
    (s.enter q).draws = s.draws := by
  unfold State.enter; split <;> simp_all

/-! ## `endOk`: the end with `Ok` -/

@[simp] theorem State.endOk_chipVariant (s : State) (d : Option Data) :
    (s.endOk d).chipVariant = s.chipVariant := by
  cases d <;> simp [State.endOk]

@[simp] theorem State.endOk_endAddress (s : State) (d : Option Data) :
    (s.endOk d).endAddress = s.endAddress := by
  cases d <;> simp [State.endOk]

@[simp] theorem State.endOk_volSrc (s : State) (d : Option Data) :
    (s.endOk d).volSrc = s.volSrc := by
  cases d <;> simp [State.endOk]

@[simp] theorem State.endOk_initialized (s : State) (d : Option Data) :
    (s.endOk d).initialized = s.initialized := by
  cases d <;> simp [State.endOk]

@[simp] theorem State.endOk_interruptDone (s : State) (d : Option Data) :
    (s.endOk d).interruptDone = s.interruptDone := by
  cases d <;> simp [State.endOk]

@[simp] theorem State.endOk_status1 (s : State) (d : Option Data) :
    (s.endOk d).status1 = s.status1 := by
  cases d <;> simp [State.endOk]

@[simp] theorem State.endOk_status2 (s : State) (d : Option Data) :
    (s.endOk d).status2 = s.status2 := by
  cases d <;> simp [State.endOk]

@[simp] theorem State.endOk_seq (s : State) (d : Option Data) :
    (s.endOk d).seq = .idle := by
  cases d <;> simp [State.endOk]

@[simp] theorem State.endOk_timeoutCnt (s : State) (d : Option Data) :
    (s.endOk d).timeoutCnt = s.timeoutCnt := by
  cases d <;> simp [State.endOk]

@[simp] theorem State.endOk_apcTmp (s : State) (d : Option Data) :
    (s.endOk d).apcTmp = s.apcTmp := by
  cases d <;> simp [State.endOk]

@[simp] theorem State.endOk_txbuf (s : State) (d : Option Data) :
    (s.endOk d).txbuf = s.txbuf := by
  cases d <;> simp [State.endOk]

@[simp] theorem State.endOk_rxbuf (s : State) (d : Option Data) :
    (s.endOk d).rxbuf = s.rxbuf := by
  cases d <;> simp [State.endOk]

@[simp] theorem State.endOk_flen (s : State) (d : Option Data) :
    (s.endOk d).flen = s.flen := by
  cases d <;> simp [State.endOk]

@[simp] theorem State.endOk_result (s : State) (d : Option Data) :
    (s.endOk d).result = .ok := by
  cases d <;> simp [State.endOk]

@[simp] theorem State.endOk_bindingsOk (s : State) (d : Option Data) :
    (s.endOk d).bindingsOk = s.bindingsOk := by
  cases d <;> simp [State.endOk]

@[simp] theorem State.endOk_eventCbPresent (s : State) (d : Option Data) :
    (s.endOk d).eventCbPresent = s.eventCbPresent := by
  cases d <;> simp [State.endOk]

@[simp] theorem State.endOk_params (s : State) (d : Option Data) :
    (s.endOk d).params = s.params := by
  cases d <;> simp [State.endOk]

@[simp] theorem State.endOk_inputs (s : State) (d : Option Data) :
    (s.endOk d).inputs = s.inputs := by
  cases d <;> simp [State.endOk]

@[simp] theorem State.endOk_answers (s : State) (d : Option Data) :
    (s.endOk d).answers = s.answers := by
  cases d <;> simp [State.endOk]

@[simp] theorem State.endOk_hang (s : State) (d : Option Data) :
    (s.endOk d).hang = s.hang := by
  cases d <;> simp [State.endOk]

@[simp] theorem State.endOk_trace (s : State) (d : Option Data) :
    (s.endOk d).trace = s.trace := by
  cases d <;> simp [State.endOk]

@[simp] theorem State.endOk_seqLog (s : State) (d : Option Data) :
    (s.endOk d).seqLog = s.seqLog ++ [.completed, .idle] := by
  cases d <;> simp [State.endOk]

@[simp] theorem State.endOk_rdata_some (s : State) (d : Data) : (s.endOk (some d)).rdata = d := rfl

/-! ## `endErr`: the end with an error -/

@[simp] theorem State.endErr_chipVariant (s : State) (e : ErrCode) :
    (s.endErr e).chipVariant = s.chipVariant := by
  simp [State.endErr]

@[simp] theorem State.endErr_endAddress (s : State) (e : ErrCode) :
    (s.endErr e).endAddress = s.endAddress := by
  simp [State.endErr]

@[simp] theorem State.endErr_volSrc (s : State) (e : ErrCode) :
    (s.endErr e).volSrc = s.volSrc := by
  simp [State.endErr]

@[simp] theorem State.endErr_initialized (s : State) (e : ErrCode) :
    (s.endErr e).initialized = s.initialized := by
  simp [State.endErr]

@[simp] theorem State.endErr_interruptDone (s : State) (e : ErrCode) :
    (s.endErr e).interruptDone = s.interruptDone := by
  simp [State.endErr]

@[simp] theorem State.endErr_status1 (s : State) (e : ErrCode) :
    (s.endErr e).status1 = s.status1 := by
  simp [State.endErr]

@[simp] theorem State.endErr_status2 (s : State) (e : ErrCode) :
    (s.endErr e).status2 = s.status2 := by
  simp [State.endErr]

@[simp] theorem State.endErr_seq (s : State) (e : ErrCode) :
    (s.endErr e).seq = .idle := by
  simp [State.endErr]

@[simp] theorem State.endErr_timeoutCnt (s : State) (e : ErrCode) :
    (s.endErr e).timeoutCnt = s.timeoutCnt := by
  simp [State.endErr]

@[simp] theorem State.endErr_apcTmp (s : State) (e : ErrCode) :
    (s.endErr e).apcTmp = s.apcTmp := by
  simp [State.endErr]

@[simp] theorem State.endErr_txbuf (s : State) (e : ErrCode) :
    (s.endErr e).txbuf = s.txbuf := by
  simp [State.endErr]

@[simp] theorem State.endErr_rxbuf (s : State) (e : ErrCode) :
    (s.endErr e).rxbuf = s.rxbuf := by
  simp [State.endErr]

@[simp] theorem State.endErr_flen (s : State) (e : ErrCode) :
    (s.endErr e).flen = s.flen := by
  simp [State.endErr]

@[simp] theorem State.endErr_result (s : State) (e : ErrCode) :
    (s.endErr e).result = e := by
  simp [State.endErr]

@[simp] theorem State.endErr_bindingsOk (s : State) (e : ErrCode) :
    (s.endErr e).bindingsOk = s.bindingsOk := by
  simp [State.endErr]

@[simp] theorem State.endErr_eventCbPresent (s : State) (e : ErrCode) :
    (s.endErr e).eventCbPresent = s.eventCbPresent := by
  simp [State.endErr]

@[simp] theorem State.endErr_params (s : State) (e : ErrCode) :
    (s.endErr e).params = s.params := by
  simp [State.endErr]

@[simp] theorem State.endErr_inputs (s : State) (e : ErrCode) :
    (s.endErr e).inputs = s.inputs := by
  simp [State.endErr]

@[simp] theorem State.endErr_answers (s : State) (e : ErrCode) :
    (s.endErr e).answers = s.answers := by
  simp [State.endErr]

@[simp] theorem State.endErr_hang (s : State) (e : ErrCode) :
    (s.endErr e).hang = s.hang := by
  simp [State.endErr]

@[simp] theorem State.endErr_trace (s : State) (e : ErrCode) :
    (s.endErr e).trace = s.trace := by
  simp [State.endErr]

@[simp] theorem State.endErr_draws (s : State) (e : ErrCode) :
    (s.endErr e).draws = s.draws + 1 := by
  simp [State.endErr]

@[simp] theorem State.endErr_seqLog (s : State) (e : ErrCode) :
    (s.endErr e).seqLog = (s.enter (terminalOf e)).seqLog ++ [.idle] := by
  simp [State.endErr]

/-! ## `markReady`: steps 10 and 11 of INIT -/

@[simp] theorem State.markReady_chipVariant (s : State) :
    (s.markReady).chipVariant = s.chipVariant := rfl

@[simp] theorem State.markReady_endAddress (s : State) :
    (s.markReady).endAddress = s.endAddress := rfl

@[simp] theorem State.markReady_volSrc (s : State) :
    (s.markReady).volSrc = .register := rfl

@[simp] theorem State.markReady_initialized (s : State) :
    (s.markReady).initialized = true := rfl

@[simp] theorem State.markReady_interruptDone (s : State) :
    (s.markReady).interruptDone = s.interruptDone := rfl

@[simp] theorem State.markReady_status1 (s : State) :
    (s.markReady).status1 = s.status1 := rfl

@[simp] theorem State.markReady_status2 (s : State) :
    (s.markReady).status2 = s.status2 := rfl

@[simp] theorem State.markReady_seq (s : State) :
    (s.markReady).seq = s.seq := rfl

@[simp] theorem State.markReady_timeoutCnt (s : State) :
    (s.markReady).timeoutCnt = s.timeoutCnt := rfl

@[simp] theorem State.markReady_apcTmp (s : State) :
    (s.markReady).apcTmp = s.apcTmp := rfl

@[simp] theorem State.markReady_txbuf (s : State) :
    (s.markReady).txbuf = s.txbuf := rfl

@[simp] theorem State.markReady_rxbuf (s : State) :
    (s.markReady).rxbuf = s.rxbuf := rfl

@[simp] theorem State.markReady_flen (s : State) :
    (s.markReady).flen = s.flen := rfl

@[simp] theorem State.markReady_result (s : State) :
    (s.markReady).result = s.result := rfl

@[simp] theorem State.markReady_rdata (s : State) :
    (s.markReady).rdata = s.rdata := rfl

@[simp] theorem State.markReady_bindingsOk (s : State) :
    (s.markReady).bindingsOk = s.bindingsOk := rfl

@[simp] theorem State.markReady_eventCbPresent (s : State) :
    (s.markReady).eventCbPresent = s.eventCbPresent := rfl

@[simp] theorem State.markReady_params (s : State) :
    (s.markReady).params = s.params := rfl

@[simp] theorem State.markReady_inputs (s : State) :
    (s.markReady).inputs = s.inputs := rfl

@[simp] theorem State.markReady_answers (s : State) :
    (s.markReady).answers = s.answers := rfl

@[simp] theorem State.markReady_hang (s : State) :
    (s.markReady).hang = s.hang := rfl

@[simp] theorem State.markReady_trace (s : State) :
    (s.markReady).trace = s.trace := rfl

@[simp] theorem State.markReady_draws (s : State) :
    (s.markReady).draws = s.draws := rfl

@[simp] theorem State.markReady_seqLog (s : State) :
    (s.markReady).seqLog = s.seqLog := rfl

end Sys2Proof.Machine
end

