-- ==== Sys2Proof/Laws/Frames.lean ====
section
/-! SUPPORT. The transceiver's lemmas: bit reversal, the frame buffers, the length of every frame, and what one
successful exchange leaves. -/

namespace Sys2Proof.Machine

/-! ## Bit reversal -/

theorem bitrev8_bitrev8 (b : Byte) : bitrev8 (bitrev8 b) = b := BitVec.reverse_reverse_eq

theorem bitrev8_injective {a b : Byte} (h : bitrev8 a = bitrev8 b) : a = b := by
  rw [← bitrev8_bitrev8 a, h, bitrev8_bitrev8]

/-! ## The frame buffers -/

theorem overlay_getElem (n : Nat) (bytes : List Byte) (old : FrameBuffer) (i : Nat) (h : i < 7) :
    (overlay n bytes old)[i] = if i < n then bytes.getD i 0 else old[i] := by
  simp [overlay]

theorem overlay_take (tx : List Byte) (old : FrameBuffer) (h : tx.length ≤ 7) :
    (overlay tx.length tx old).toList.take tx.length = tx := by
  apply List.ext_getElem
  · simp; omega
  · intro i h1 h2
    simp [List.getElem_take, overlay_getElem, h2]

theorem toNat_length {tx : List Byte} (h : tx.length ≤ 7) :
    (BitVec.ofNat 3 tx.length).toNat = tx.length := by
  rw [BitVec.toNat_ofNat]; omega

theorem wireFrame_loadFrame (s : State) {tx : List Byte} (h : tx.length ≤ 7) :
    (s.loadFrame tx).wireFrame = tx.map bitrev8 := by
  simp only [State.wireFrame, State.loadFrame_txbuf, State.loadFrame_flen, toNat_length h,
    overlay_take tx s.txbuf h]

/-! ## The length of every frame -/

theorem length_padTo (p : Params) (n : Nat) (bytes : List Byte) (h : bytes.length ≤ n) :
    (padTo p n bytes).length = n := by
  simp [padTo]; omega

theorem length_rangePad_le (p : Params) : (rangePad p).length ≤ 1 := by
  unfold rangePad; split <;> simp

/-- The length of an instruction's frame is that of its opcode's format (R93). -/
theorem encodeWith_length_le (p : Params) (hp : p.valid = true) (i : Instr) :
    (encodeWith p i).length ≤ 7 := by
  simp only [Params.valid, Params.lengthsValid, Bool.and_eq_true, decide_eq_true_eq] at hp
  have hr := length_rangePad_le p
  cases i <;> simp [encodeWith, padTo, rangeFrame, addrPayload, wordPayload] <;> omega

theorem encodeWith_cmd (p : Params) {i : Instr} {op : Byte}
    (h : encodeWith p i = padTo p p.lCmd [op]) : encodeWith p i = cmdFrame p op := by
  simp [h, cmdFrame, padTo]

theorem length_rd3Frame (p : Params) (hp : p.valid = true) (op : Byte) :
    (rd3Frame p op).length = p.lRd3 := by
  simp only [Params.valid, Params.lengthsValid, Bool.and_eq_true, decide_eq_true_eq] at hp
  simp [rd3Frame]; omega

theorem length_rd4Frame (p : Params) (hp : p.valid = true) (op : Byte) :
    (rd4Frame p op).length = p.lRd4 := by
  simp only [Params.valid, Params.lengthsValid, Bool.and_eq_true, decide_eq_true_eq] at hp
  simp [rd4Frame]; omega

theorem lRd3_bounds {p : Params} (hp : p.valid = true) : 3 ≤ p.lRd3 ∧ p.lRd3 ≤ 7 := by
  simp only [Params.valid, Params.lengthsValid, Bool.and_eq_true, decide_eq_true_eq] at hp
  omega

theorem lRd4_bounds {p : Params} (hp : p.valid = true) : 4 ≤ p.lRd4 ∧ p.lRd4 ≤ 7 := by
  simp only [Params.valid, Params.lengthsValid, Bool.and_eq_true, decide_eq_true_eq] at hp
  omega

/-! ## The answers of the ports -/

theorem answer_eq (s : State) : s.answer = s.answerAt 0 := by
  cases h : s.answers <;> simp [State.answer, State.answerAt, h]

theorem answerAt_congr {s t : State} (h1 : t.answers = s.answers) (h2 : t.draws = s.draws) (k : Nat) :
    t.answerAt k = s.answerAt k := by
  simp [State.answerAt, h1, h2]

@[simp] theorem dropAnswer_answerAt (s : State) (k : Nat) :
    s.dropAnswer.answerAt k = s.answerAt (k + 1) := by
  cases h : s.answers with
  | nil =>
      simp only [State.answerAt, State.dropAnswer, h]
      simp [Nat.add_comm, Nat.add_left_comm]
  | cons a rest => simp [State.answerAt, State.dropAnswer, h]

@[simp] theorem setSeq_answerAt (s : State) (q : SeqState) (k : Nat) :
    (s.setSeq q).answerAt k = s.answerAt k := rfl

@[simp] theorem setTimeoutCnt_answerAt (s : State) (n : Nat) (k : Nat) :
    (s.setTimeoutCnt n).answerAt k = s.answerAt k := rfl

@[simp] theorem setApcTmp_answerAt (s : State) (w : Word12) (k : Nat) :
    (s.setApcTmp w).answerAt k = s.answerAt k := rfl

@[simp] theorem setChipVariant_answerAt (s : State) (v : VariantCode) (k : Nat) :
    (s.setChipVariant v).answerAt k = s.answerAt k := rfl

@[simp] theorem setEndAddress_answerAt (s : State) (a : Addr) (k : Nat) :
    (s.setEndAddress a).answerAt k = s.answerAt k := rfl

@[simp] theorem setVolSrc_answerAt (s : State) (src : VolSrc) (k : Nat) :
    (s.setVolSrc src).answerAt k = s.answerAt k := rfl

@[simp] theorem setInitialized_answerAt (s : State) (b : Bool) (k : Nat) :
    (s.setInitialized b).answerAt k = s.answerAt k := rfl

@[simp] theorem setInterruptDone_answerAt (s : State) (b : Bool) (k : Nat) :
    (s.setInterruptDone b).answerAt k = s.answerAt k := rfl

@[simp] theorem setHang_answerAt (s : State) (h : Option Nat) (k : Nat) :
    (s.setHang h).answerAt k = s.answerAt k := rfl

@[simp] theorem emit_answerAt (s : State) (e : Event) (k : Nat) :
    (s.emit e).answerAt k = s.answerAt k := rfl

@[simp] theorem latchStatus_answerAt (s : State) (k : Nat) :
    s.latchStatus.answerAt k = s.answerAt k := rfl

/-! ## One successful exchange -/

/-- The state after the successful exchange of the logical frame `tx`. -/
def State.exchanged (s : State) (tx : List Byte) : State :=
  { s.dropAnswer with
    flen := BitVec.ofNat 3 tx.length
    txbuf := overlay tx.length tx s.txbuf
    rxbuf := overlay (BitVec.ofNat 3 tx.length).toNat ((s.answerAt 0).rx.toList.map bitrev8) s.rxbuf
    trace := s.trace ++ [s.xferAt 0 tx] }

/-- The state after a failed exchange of the logical frame `tx` (R122): `RXBUF` is not written. -/
def State.exchangeFailed (s : State) (tx : List Byte) : State :=
  { s.dropAnswer with
    flen := BitVec.ofNat 3 tx.length
    txbuf := overlay tx.length tx s.txbuf
    trace := s.trace ++ [.xferFail (tx.map bitrev8)] }

theorem loadFrame_dropAnswer (s : State) (tx : List Byte) :
    (s.loadFrame tx).dropAnswer = { s.dropAnswer with
      flen := BitVec.ofNat 3 tx.length, txbuf := overlay tx.length tx s.txbuf } := by
  cases h : s.answers <;> simp [State.dropAnswer, State.loadFrame, h]

theorem loadFrame_answer (s : State) (tx : List Byte) : (s.loadFrame tx).answer = s.answerAt 0 := by
  rw [answer_eq]; rfl

theorem portReturns_none {s : State} (h : s.hang = none) : portReturns s = .ok s := by
  simp [portReturns, h]

/-- All that `XFER` can come to when the port call returns (R122). -/
theorem xfer_eq (s : State) {tx : List Byte} (hh : s.hang = none) (hl : tx.length ≤ 7) :
    xfer tx s = if (s.answerAt 0).ok then .ok (s.exchanged tx)
      else .err .communicationFailure (s.exchangeFailed tx) := by
  rw [xfer, exchange, portReturns_none (by simpa using hh)]
  simp only [Res.andThen, loadFrame_answer, wireFrame_loadFrame s hl]
  split
  · simp [State.exchanged, State.receive, State.emit, loadFrame_dropAnswer, State.xferAt,
      toNat_length hl]
  · simp [State.exchangeFailed, State.emit, loadFrame_dropAnswer]

theorem xfer_ok (s : State) {tx : List Byte} (hh : s.hang = none) (hl : tx.length ≤ 7)
    (ha : (s.answerAt 0).ok = true) : xfer tx s = .ok (s.exchanged tx) := by
  rw [xfer_eq s hh hl, if_pos ha]

theorem sendFrame_ok (s : State) (i : Instr) (hh : s.hang = none) (hp : s.params.valid = true)
    (ha : (s.answerAt 0).ok = true) :
    sendFrame i s = .ok (s.exchanged (encodeWith s.params i)) :=
  xfer_ok s hh (encodeWith_length_le _ hp i) ha

theorem sendFrame_failed (s : State) (i : Instr) (hh : s.hang = none) (hp : s.params.valid = true)
    (ha : (s.answerAt 0).ok = false) :
    sendFrame i s = .err .communicationFailure (s.exchangeFailed (encodeWith s.params i)) := by
  rw [sendFrame, xfer_eq s hh (encodeWith_length_le _ hp i), if_neg (by simp [ha])]

@[simp] theorem exchanged_answerAt (s : State) (tx : List Byte) (k : Nat) :
    (s.exchanged tx).answerAt k = s.answerAt (k + 1) := by
  rw [← dropAnswer_answerAt]; rfl

@[simp] theorem exchangeFailed_answerAt (s : State) (tx : List Byte) (k : Nat) :
    (s.exchangeFailed tx).answerAt k = s.answerAt (k + 1) := by
  rw [← dropAnswer_answerAt]; rfl

theorem exchanged_rxbuf (s : State) {tx : List Byte} (hl : tx.length ≤ 7) (i : Fin 7)
    (h : i.val < tx.length) : (s.exchanged tx).rxbuf[i] = s.rxAt 0 i := by
  simp only [State.exchanged, toNat_length hl, State.rxAt]
  have hi := i.isLt
  rw [Fin.getElem_fin, overlay_getElem _ _ _ _ hi, if_pos h]
  simp [List.getD_eq_getElem?_getD, hi]

@[simp] theorem exchanged_chipVariant (s : State) (tx : List Byte) :
    (s.exchanged tx).chipVariant = s.chipVariant := by simp [State.exchanged]

@[simp] theorem exchanged_endAddress (s : State) (tx : List Byte) :
    (s.exchanged tx).endAddress = s.endAddress := by simp [State.exchanged]

@[simp] theorem exchanged_volSrc (s : State) (tx : List Byte) :
    (s.exchanged tx).volSrc = s.volSrc := by simp [State.exchanged]

@[simp] theorem exchanged_initialized (s : State) (tx : List Byte) :
    (s.exchanged tx).initialized = s.initialized := by simp [State.exchanged]

@[simp] theorem exchanged_interruptDone (s : State) (tx : List Byte) :
    (s.exchanged tx).interruptDone = s.interruptDone := by simp [State.exchanged]

@[simp] theorem exchanged_status1 (s : State) (tx : List Byte) :
    (s.exchanged tx).status1 = s.status1 := by simp [State.exchanged]

@[simp] theorem exchanged_status2 (s : State) (tx : List Byte) :
    (s.exchanged tx).status2 = s.status2 := by simp [State.exchanged]

@[simp] theorem exchanged_seq (s : State) (tx : List Byte) :
    (s.exchanged tx).seq = s.seq := by simp [State.exchanged]

@[simp] theorem exchanged_timeoutCnt (s : State) (tx : List Byte) :
    (s.exchanged tx).timeoutCnt = s.timeoutCnt := by simp [State.exchanged]

@[simp] theorem exchanged_apcTmp (s : State) (tx : List Byte) :
    (s.exchanged tx).apcTmp = s.apcTmp := by simp [State.exchanged]

@[simp] theorem exchanged_result (s : State) (tx : List Byte) :
    (s.exchanged tx).result = s.result := by simp [State.exchanged]

@[simp] theorem exchanged_rdata (s : State) (tx : List Byte) :
    (s.exchanged tx).rdata = s.rdata := by simp [State.exchanged]

@[simp] theorem exchanged_bindingsOk (s : State) (tx : List Byte) :
    (s.exchanged tx).bindingsOk = s.bindingsOk := by simp [State.exchanged]

@[simp] theorem exchanged_eventCbPresent (s : State) (tx : List Byte) :
    (s.exchanged tx).eventCbPresent = s.eventCbPresent := by simp [State.exchanged]

@[simp] theorem exchanged_params (s : State) (tx : List Byte) :
    (s.exchanged tx).params = s.params := by simp [State.exchanged]

@[simp] theorem exchanged_inputs (s : State) (tx : List Byte) :
    (s.exchanged tx).inputs = s.inputs := by simp [State.exchanged]

@[simp] theorem exchanged_hang (s : State) (tx : List Byte) :
    (s.exchanged tx).hang = s.hang := by simp [State.exchanged]

@[simp] theorem exchanged_seqLog (s : State) (tx : List Byte) :
    (s.exchanged tx).seqLog = s.seqLog := by simp [State.exchanged]

@[simp] theorem exchangeFailed_chipVariant (s : State) (tx : List Byte) :
    (s.exchangeFailed tx).chipVariant = s.chipVariant := by simp [State.exchangeFailed]

@[simp] theorem exchangeFailed_endAddress (s : State) (tx : List Byte) :
    (s.exchangeFailed tx).endAddress = s.endAddress := by simp [State.exchangeFailed]

@[simp] theorem exchangeFailed_volSrc (s : State) (tx : List Byte) :
    (s.exchangeFailed tx).volSrc = s.volSrc := by simp [State.exchangeFailed]

@[simp] theorem exchangeFailed_initialized (s : State) (tx : List Byte) :
    (s.exchangeFailed tx).initialized = s.initialized := by simp [State.exchangeFailed]

@[simp] theorem exchangeFailed_interruptDone (s : State) (tx : List Byte) :
    (s.exchangeFailed tx).interruptDone = s.interruptDone := by simp [State.exchangeFailed]

@[simp] theorem exchangeFailed_status1 (s : State) (tx : List Byte) :
    (s.exchangeFailed tx).status1 = s.status1 := by simp [State.exchangeFailed]

@[simp] theorem exchangeFailed_status2 (s : State) (tx : List Byte) :
    (s.exchangeFailed tx).status2 = s.status2 := by simp [State.exchangeFailed]

@[simp] theorem exchangeFailed_seq (s : State) (tx : List Byte) :
    (s.exchangeFailed tx).seq = s.seq := by simp [State.exchangeFailed]

@[simp] theorem exchangeFailed_timeoutCnt (s : State) (tx : List Byte) :
    (s.exchangeFailed tx).timeoutCnt = s.timeoutCnt := by simp [State.exchangeFailed]

@[simp] theorem exchangeFailed_apcTmp (s : State) (tx : List Byte) :
    (s.exchangeFailed tx).apcTmp = s.apcTmp := by simp [State.exchangeFailed]

@[simp] theorem exchangeFailed_result (s : State) (tx : List Byte) :
    (s.exchangeFailed tx).result = s.result := by simp [State.exchangeFailed]

@[simp] theorem exchangeFailed_rdata (s : State) (tx : List Byte) :
    (s.exchangeFailed tx).rdata = s.rdata := by simp [State.exchangeFailed]

@[simp] theorem exchangeFailed_bindingsOk (s : State) (tx : List Byte) :
    (s.exchangeFailed tx).bindingsOk = s.bindingsOk := by simp [State.exchangeFailed]

@[simp] theorem exchangeFailed_eventCbPresent (s : State) (tx : List Byte) :
    (s.exchangeFailed tx).eventCbPresent = s.eventCbPresent := by simp [State.exchangeFailed]

@[simp] theorem exchangeFailed_params (s : State) (tx : List Byte) :
    (s.exchangeFailed tx).params = s.params := by simp [State.exchangeFailed]

@[simp] theorem exchangeFailed_inputs (s : State) (tx : List Byte) :
    (s.exchangeFailed tx).inputs = s.inputs := by simp [State.exchangeFailed]

@[simp] theorem exchangeFailed_hang (s : State) (tx : List Byte) :
    (s.exchangeFailed tx).hang = s.hang := by simp [State.exchangeFailed]

@[simp] theorem exchangeFailed_seqLog (s : State) (tx : List Byte) :
    (s.exchangeFailed tx).seqLog = s.seqLog := by simp [State.exchangeFailed]

@[simp] theorem exchanged_trace (s : State) (tx : List Byte) :
    (s.exchanged tx).trace = s.trace ++ [s.xferAt 0 tx] := rfl

@[simp] theorem exchangeFailed_trace (s : State) (tx : List Byte) :
    (s.exchangeFailed tx).trace = s.trace ++ [.xferFail (tx.map bitrev8)] := rfl

@[simp] theorem exchangeFailed_rxbuf (s : State) (tx : List Byte) :
    (s.exchangeFailed tx).rxbuf = s.rxbuf := by simp [State.exchangeFailed]

/-! ## What the answers to come hold, before and after -/

@[simp] theorem setSeq_rxAt (s : State) (q : SeqState) (k : Nat) (i : Fin 7) :
    (s.setSeq q).rxAt k i = s.rxAt k i := rfl

@[simp] theorem setSeq_status1At (s : State) (q : SeqState) (k : Nat) :
    (s.setSeq q).status1At k = s.status1At k := rfl

@[simp] theorem setSeq_status2At (s : State) (q : SeqState) (k : Nat) :
    (s.setSeq q).status2At k = s.status2At k := rfl

@[simp] theorem setSeq_apcAt (s : State) (q : SeqState) (k : Nat) :
    (s.setSeq q).apcAt k = s.apcAt k := rfl

@[simp] theorem setSeq_xferAt (s : State) (q : SeqState) (k : Nat) (frame : List Byte) :
    (s.setSeq q).xferAt k frame = s.xferAt k frame := rfl

@[simp] theorem setSeq_irqAt (s : State) (q : SeqState) (k : Nat) :
    (s.setSeq q).irqAt k = s.irqAt k := rfl

@[simp] theorem setSeq_cmdErrAt (s : State) (q : SeqState) (k : Nat) :
    (s.setSeq q).cmdErrAt k = s.cmdErrAt k := rfl

@[simp] theorem setSeq_statusEvents (s : State) (q : SeqState) (k : Nat) (settle : Nat) :
    (s.setSeq q).statusEvents k settle = s.statusEvents k settle := rfl

@[simp] theorem exchanged_rxAt (s : State) (tx : List Byte) (k : Nat) (i : Fin 7) :
    (s.exchanged tx).rxAt k i = s.rxAt (k + 1) i := by
  simp [State.rxAt]

@[simp] theorem exchanged_status1At (s : State) (tx : List Byte) (k : Nat) :
    (s.exchanged tx).status1At k = s.status1At (k + 1) := by
  simp [State.status1At]

@[simp] theorem exchanged_status2At (s : State) (tx : List Byte) (k : Nat) :
    (s.exchanged tx).status2At k = s.status2At (k + 1) := by
  simp [State.status2At]

@[simp] theorem exchanged_irqAt (s : State) (tx : List Byte) (k : Nat) :
    (s.exchanged tx).irqAt k = s.irqAt (k + 1) := by
  simp [State.irqAt]

@[simp] theorem exchanged_cmdErrAt (s : State) (tx : List Byte) (k : Nat) :
    (s.exchanged tx).cmdErrAt k = s.cmdErrAt (k + 1) := by
  simp [State.cmdErrAt]

@[simp] theorem exchanged_apcAt (s : State) (tx : List Byte) (k : Nat) :
    (s.exchanged tx).apcAt k = s.apcAt (k + 1) := by
  simp [State.apcAt]

@[simp] theorem exchanged_xferAt (s : State) (tx : List Byte) (k : Nat) (frame : List Byte) :
    (s.exchanged tx).xferAt k frame = s.xferAt (k + 1) frame := by
  simp [State.xferAt]

end Sys2Proof.Machine
end

