-- ==== Sys2Proof/Laws/Ops.lean ====
section
/-! SUPPORT. What each shared operation can do, said once. `Res.sat` speaks of the state a part of the
pseudocode leaves, whether it goes on or raises; `Quiet` is what every port primitive keeps; `Moves` adds the
sequencer's path. -/

namespace Sys2Proof.Machine

/-! ## Results -/

/-- `P` holds of the state that `r` leaves, if it leaves one. -/
def Res.sat (r : Res) (P : State → Prop) : Prop :=
  match r with
  | .ok s => P s
  | .err _ s => P s
  | .stuck => True

@[simp] theorem Res.sat_ok (s : State) (P : State → Prop) : (Res.ok s).sat P ↔ P s := Iff.rfl
@[simp] theorem Res.sat_err (e : ErrCode) (s : State) (P : State → Prop) :
    (Res.err e s).sat P ↔ P s := Iff.rfl
@[simp] theorem Res.sat_stuck (P : State → Prop) : Res.stuck.sat P := trivial

@[simp] theorem andThen_ok (s : State) (k : State → Res) : (Res.ok s).andThen k = k s := rfl
@[simp] theorem andThen_err (e : ErrCode) (s : State) (k : State → Res) :
    (Res.err e s).andThen k = .err e s := rfl
@[simp] theorem andThen_stuck (k : State → Res) : Res.stuck.andThen k = .stuck := rfl
@[simp] theorem ignoreErr_ok (s : State) : (Res.ok s).ignoreErr = .ok s := rfl
@[simp] theorem ignoreErr_err (e : ErrCode) (s : State) : (Res.err e s).ignoreErr = .ok s := rfl
@[simp] theorem ignoreErr_stuck : Res.stuck.ignoreErr = .stuck := rfl

theorem Res.sat_mono {r : Res} {P Q : State → Prop} (h : r.sat P) (hPQ : ∀ s, P s → Q s) : r.sat Q := by
  cases r with
  | ok s => exact hPQ s h
  | err e s => exact hPQ s h
  | stuck => trivial

theorem Res.sat_andThen {r : Res} {k : State → Res} {P Q : State → Prop} (h : r.sat P)
    (hPQ : ∀ s, P s → Q s) (hk : ∀ s, P s → (k s).sat Q) : (r.andThen k).sat Q := by
  cases r with
  | ok s => exact hk s h
  | err e s => exact hPQ s h
  | stuck => trivial

theorem Res.sat_ignoreErr {r : Res} {P : State → Prop} (h : r.sat P) : r.ignoreErr.sat P := by
  cases r <;> exact h

/-- Chaining along a transitive relation. -/
theorem Res.sat_chain {R : State → State → Prop} (htrans : ∀ {a b c}, R a b → R b c → R a c)
    {r : Res} {k : State → Res} {s : State} (h : r.sat (R s)) (hk : ∀ t, (k t).sat (R t)) :
    (r.andThen k).sat (R s) :=
  Res.sat_andThen h (fun _ h => h) fun _ h => Res.sat_mono (hk _) fun _ => htrans h

/-! ## What the port primitives keep -/

/-- A list of events in which every frame handed to the PHY is the frame of a command. -/
def commandEvents (p : Params) (es : List Event) : Prop :=
  ∀ e ∈ es, ∀ w, e.sent = some w → ∃ i : Instr, w = (encodeWith p i).map bitrev8

/-- What every port primitive, and every composition of them, keeps. -/
structure Quiet (s t : State) : Prop where
  handle : handleKept s t
  inst : instanceKept s t
  result : t.result = s.result
  rdata : t.rdata = s.rdata
  seq : t.seq = s.seq
  seqLog : t.seqLog = s.seqLog
  cnt : t.timeoutCnt = s.timeoutCnt
  trace : ∃ es, t.trace = s.trace ++ es ∧ (s.params.valid = true → commandEvents s.params es)

theorem handleKept_refl (s : State) : handleKept s s := ⟨rfl, rfl, rfl, rfl, rfl⟩
theorem instanceKept_refl (s : State) : instanceKept s s := ⟨rfl, rfl, rfl, rfl⟩

theorem handleKept_trans {a b c : State} (h : handleKept a b) (k : handleKept b c) : handleKept a c :=
  ⟨k.1.trans h.1, k.2.1.trans h.2.1, k.2.2.1.trans h.2.2.1, k.2.2.2.1.trans h.2.2.2.1,
    k.2.2.2.2.trans h.2.2.2.2⟩

theorem instanceKept_trans {a b c : State} (h : instanceKept a b) (k : instanceKept b c) :
    instanceKept a c :=
  ⟨k.1.trans h.1, k.2.1.trans h.2.1, k.2.2.1.trans h.2.2.1, k.2.2.2.trans h.2.2.2⟩

theorem commandEvents_append {p : Params} {es fs : List Event} (h : commandEvents p es)
    (k : commandEvents p fs) : commandEvents p (es ++ fs) := by
  intro e he
  rcases List.mem_append.1 he with h1 | h1
  · exact h e h1
  · exact k e h1

theorem traceKept_trans {a b c : State} (hp : b.params = a.params)
    (h : ∃ es, b.trace = a.trace ++ es ∧ (a.params.valid = true → commandEvents a.params es))
    (k : ∃ es, c.trace = b.trace ++ es ∧ (b.params.valid = true → commandEvents b.params es)) :
    ∃ es, c.trace = a.trace ++ es ∧ (a.params.valid = true → commandEvents a.params es) := by
  obtain ⟨es, h1, h2⟩ := h
  obtain ⟨fs, k1, k2⟩ := k
  refine ⟨es ++ fs, by rw [k1, h1, List.append_assoc], fun hv => ?_⟩
  exact commandEvents_append (h2 hv) (by rw [hp] at k2; exact k2 hv)

theorem Quiet.refl (s : State) : Quiet s s :=
  ⟨handleKept_refl s, instanceKept_refl s, rfl, rfl, rfl, rfl, rfl, [], by simp,
    fun _ e he => by simp at he⟩

theorem Quiet.trans {a b c : State} (h : Quiet a b) (k : Quiet b c) : Quiet a c :=
  ⟨handleKept_trans h.handle k.handle, instanceKept_trans h.inst k.inst, k.result.trans h.result,
    k.rdata.trans h.rdata, k.seq.trans h.seq, k.seqLog.trans h.seqLog, k.cnt.trans h.cnt,
    traceKept_trans h.inst.2.2.1 h.trace k.trace⟩

theorem quiet_chain {r : Res} {k : State → Res} {s : State} (h : r.sat (Quiet s))
    (hk : ∀ t, (k t).sat (Quiet t)) : (r.andThen k).sat (Quiet s) :=
  Res.sat_chain (R := Quiet) Quiet.trans h hk

/-- An update of fields that `Quiet` does not speak of. -/
theorem Quiet.of_eq {s t : State} (h1 : handleKept s t) (h2 : instanceKept s t)
    (h3 : t.result = s.result) (h4 : t.rdata = s.rdata) (h5 : t.seq = s.seq)
    (h6 : t.seqLog = s.seqLog) (h7 : t.timeoutCnt = s.timeoutCnt) (h8 : t.trace = s.trace) : Quiet s t :=
  ⟨h1, h2, h3, h4, h5, h6, h7, [], by simp [h8], fun _ e he => by simp at he⟩

theorem quiet_emit {s t : State} (h : Quiet s t) {e : Event} (he : e.sent = none) :
    Quiet s (t.emit e) := by
  refine h.trans ⟨handleKept_refl t, instanceKept_refl t, rfl, rfl, rfl, rfl, rfl, [e], rfl,
    fun _ x hx w hw => ?_⟩
  rw [List.mem_singleton.1 hx, he] at hw
  exact absurd hw (by simp)

theorem quiet_dropAnswer (s : State) : Quiet s s.dropAnswer := by
  apply Quiet.of_eq <;> simp [handleKept, instanceKept]

/-- A port call that returns changes nothing but the countdown to the one that does not. -/
theorem portReturns_quiet (s : State) :
    (portReturns s).sat fun t => ∃ h, t = s.setHang h := by
  unfold portReturns
  split
  · exact ⟨s.hang, rfl⟩
  · trivial
  · exact ⟨_, rfl⟩

theorem portReturns_sat (s : State) : (portReturns s).sat (Quiet s) :=
  Res.sat_mono (portReturns_quiet s) fun _ ⟨_, h⟩ => h ▸ Quiet.of_eq
    (handleKept_refl s) (instanceKept_refl s) rfl rfl rfl rfl rfl rfl

theorem portCall_sat (event : Bool → Event) (he : ∀ b, (event b).sent = none) (s : State) :
    (portCall event s).sat (Quiet s) := by
  refine Res.sat_andThen (portReturns_sat s) (fun _ h => h) fun t h => ?_
  split
  · exact quiet_emit (h.trans (quiet_dropAnswer t)) (he true)
  · exact quiet_emit (h.trans (quiet_dropAnswer t)) (he false)

theorem phyInit_sat (s : State) : (phyInit s).sat (Quiet s) := portCall_sat _ (fun _ => rfl) s
theorem phyDeinit_sat (s : State) : (phyDeinit s).sat (Quiet s) := portCall_sat _ (fun _ => rfl) s
theorem gpioInit_sat (s : State) : (gpioInit s).sat (Quiet s) := portCall_sat _ (fun _ => rfl) s
theorem gpioDeinit_sat (s : State) : (gpioDeinit s).sat (Quiet s) := portCall_sat _ (fun _ => rfl) s
theorem gpioWrite_sat (l : Bool) (s : State) : (gpioWrite l s).sat (Quiet s) :=
  portCall_sat _ (fun _ => rfl) s

theorem delay_sat (ms : Nat) (s : State) : (delay ms s).sat (Quiet s) := by
  unfold delay
  split
  · exact Quiet.refl s
  · exact Res.sat_andThen (portReturns_sat s) (fun _ h => h) fun t h => quiet_emit h rfl

/-- Sending a command's frame keeps what every port primitive keeps; its one event is that frame. -/
theorem sendFrame_sat (i : Instr) (s : State) : (sendFrame i s).sat (Quiet s) := by
  unfold sendFrame xfer exchange
  refine Res.sat_andThen (portReturns_quiet _) ?_ ?_
  · rintro t ⟨h, rfl⟩
    apply Quiet.of_eq <;> simp [handleKept, instanceKept]
  · rintro t ⟨h, rfl⟩
    have hw : s.params.valid = true →
        (s.loadFrame (encodeWith s.params i)).wireFrame = (encodeWith s.params i).map bitrev8 :=
      fun hv => wireFrame_loadFrame s (encodeWith_length_le s.params hv i)
    split
    · refine ⟨by simp [handleKept], by simp [instanceKept], by simp, by simp, by simp, by simp, by simp,
        [_], by simp; rfl, fun hv e he w hsent => ⟨i, ?_⟩⟩
      rw [List.mem_singleton.1 he, Event.sent, Option.some.injEq] at hsent
      exact hsent.symm.trans (hw hv)
    · refine ⟨by simp [handleKept], by simp [instanceKept], by simp, by simp, by simp, by simp, by simp,
        [_], by simp; rfl, fun hv e he w hsent => ⟨i, ?_⟩⟩
      rw [List.mem_singleton.1 he, Event.sent, Option.some.injEq] at hsent
      exact hsent.symm.trans (hw hv)

theorem latchStatus_quiet (s : State) : Quiet s s.latchStatus := by
  apply Quiet.of_eq <;> simp [handleKept, instanceKept]

theorem statusRead_sat (settle : Nat) (s : State) : (statusRead settle s).sat (Quiet s) := by
  refine quiet_chain (sendFrame_sat .rdStatus s) fun t => ?_
  split
  · refine Res.sat_mono ?_ fun _ => (latchStatus_quiet t).trans
    exact quiet_chain (sendFrame_sat .clrInt _) (delay_sat settle)
  · exact latchStatus_quiet t

/-- What a read operation answers depends on its frame alone (R208). -/
theorem frameData_ok {i : Instr} {data : FrameBuffer → Data} {s t : State}
    (h : sendFrame i (s.setSeq .commandIssued) = .ok t) : frameData i data s = some (data t.rxbuf) := by
  simp [frameData, h]

theorem apcRead_sat (s : State) : (apcRead s).sat (Quiet s) := by
  refine quiet_chain (sendFrame_sat .rdApc s) fun t => ?_
  exact Quiet.of_eq (handleKept_refl t) (instanceKept_refl t) rfl rfl rfl rfl rfl rfl

theorem apcWrite_sat (w : Word12) (src : VolSrc) (s : State) : (apcWrite w src s).sat (Quiet s) := by
  cases src
  · exact sendFrame_sat (.wrApcBtn w) s
  · exact sendFrame_sat (.wrApcReg w) s

theorem apcFieldSet_sat (f : ApcField) (v : Word12) (s : State) : (apcFieldSet f v s).sat (Quiet s) := by
  refine quiet_chain (apcRead_sat s) fun t => ?_
  refine Res.sat_mono (apcWrite_sat _ _ _) fun u h => Quiet.trans ?_ h
  exact Quiet.of_eq (handleKept_refl t) (instanceKept_refl t) rfl rfl rfl rfl rfl rfl

theorem requireInit_sat (s : State) : (requireInit s).sat (Quiet s) := by
  unfold requireInit; split <;> exact Quiet.refl s

theorem rangeCheck_sat (a b : Addr) (s : State) : (rangeCheck a b s).sat (Quiet s) := by
  unfold rangeCheck; split <;> exact Quiet.refl s

theorem release_sat (s : State) : (release s).sat (Quiet s) :=
  quiet_chain (Res.sat_ignoreErr (phyDeinit_sat s)) fun t =>
    Res.sat_ignoreErr (gpioDeinit_sat t)

end Sys2Proof.Machine
end

