-- ==== Sys2Proof/Laws/PerInstr.lean ====
section
/-! SUPPORT. What holds of every instruction, one lemma per constructor: the shape of its frame. -/

namespace Sys2Proof.Laws.FrameShape

/-- In every legal instance, the frame of `i` begins with the opcode of its row, and is as long as the format of
that opcode says (30_encoding.md R80, R90, R93). -/
def Statement (i : Instr) : Prop :=
  ∀ p : Params, p.valid = true → ∃ f payload, formatOf (opcodeOf i) = some f
    ∧ encodeWith p i = opcodeOf i :: payload ∧ (encodeWith p i).length = f.length p

/-- A frame that is a first byte and padding. -/
theorem padded (p : Params) (n : Nat) (op : Byte) (h : 1 ≤ n) :
    ∃ payload, padTo p n [op] = op :: payload ∧ (padTo p n [op]).length = n :=
  ⟨_, rfl, Machine.length_padTo p n [op] (by simpa using h)⟩

theorem lengths {p : Params} (hp : p.valid = true) :
    1 ≤ p.lCmd ∧ 1 ≤ p.lRd3 ∧ 1 ≤ p.lRd4 ∧ 5 ≤ p.lRng := by
  simp only [Params.valid, Params.lengthsValid, Bool.and_eq_true, decide_eq_true_eq] at hp
  omega

/-- A range frame (R87). -/
theorem ranged (p : Params) (op : Byte) (start last : Addr) (h : 5 ≤ p.lRng) :
    ∃ payload, rangeFrame p op start last = op :: payload
      ∧ (rangeFrame p op start last).length = p.lRng :=
  ⟨_, rfl, Machine.length_padTo p p.lRng _ (by
    unfold rangePad
    split <;> simp [addrPayload] <;> omega)⟩

theorem pu : Statement .pu := fun p hp =>
  let ⟨t, h⟩ := padded p _ _ (lengths hp |>.1)
  ⟨.fCmd, t, rfl, h⟩

theorem stop : Statement .stop := fun p hp =>
  let ⟨t, h⟩ := padded p _ _ (lengths hp |>.1)
  ⟨.fCmd, t, rfl, h⟩

theorem reset : Statement .reset := fun p hp =>
  let ⟨t, h⟩ := padded p _ _ (lengths hp |>.1)
  ⟨.fCmd, t, rfl, h⟩

theorem clrInt : Statement .clrInt := fun p hp =>
  let ⟨t, h⟩ := padded p _ _ (lengths hp |>.1)
  ⟨.fCmd, t, rfl, h⟩

theorem rdStatus : Statement .rdStatus := fun p hp =>
  let ⟨t, h⟩ := padded p _ _ (lengths hp |>.2.1)
  ⟨.fRd3, t, rfl, h⟩

theorem rdPlayPtr : Statement .rdPlayPtr := fun p hp =>
  let ⟨t, h⟩ := padded p _ _ (lengths hp |>.2.2.1)
  ⟨.fRd4, t, rfl, h⟩

theorem pd : Statement .pd := fun p hp =>
  let ⟨t, h⟩ := padded p _ _ (lengths hp |>.1)
  ⟨.fCmd, t, rfl, h⟩

theorem rdRecPtr : Statement .rdRecPtr := fun p hp =>
  let ⟨t, h⟩ := padded p _ _ (lengths hp |>.2.2.1)
  ⟨.fRd4, t, rfl, h⟩

theorem rdDevid : Statement .rdDevid := fun p hp =>
  let ⟨t, h⟩ := padded p _ _ (lengths hp |>.2.1)
  ⟨.fRd3, t, rfl, h⟩

theorem play : Statement .play := fun p hp =>
  let ⟨t, h⟩ := padded p _ _ (lengths hp |>.1)
  ⟨.fCmd, t, rfl, h⟩

theorem record : Statement .record := fun p hp =>
  let ⟨t, h⟩ := padded p _ _ (lengths hp |>.1)
  ⟨.fCmd, t, rfl, h⟩

theorem erase : Statement .erase := fun p hp =>
  let ⟨t, h⟩ := padded p _ _ (lengths hp |>.1)
  ⟨.fCmd, t, rfl, h⟩

theorem gErase : Statement .gErase := fun p hp =>
  let ⟨t, h⟩ := padded p _ _ (lengths hp |>.1)
  ⟨.fCmd, t, rfl, h⟩

theorem rdApc : Statement .rdApc := fun p hp =>
  let ⟨t, h⟩ := padded p _ _ (lengths hp |>.2.2.1)
  ⟨.fRd4, t, rfl, h⟩

theorem wrApcBtn (w : Word12) : Statement (.wrApcBtn w) := fun _ _ => ⟨.fWr3, _, rfl, rfl, rfl⟩

theorem wrApcReg (w : Word12) : Statement (.wrApcReg w) := fun _ _ => ⟨.fWr3, _, rfl, rfl, rfl⟩

theorem wrNvcfg : Statement .wrNvcfg := fun p hp =>
  let ⟨t, h⟩ := padded p _ _ (lengths hp |>.1)
  ⟨.fCmd, t, rfl, h⟩

theorem ldNvcfg : Statement .ldNvcfg := fun p hp =>
  let ⟨t, h⟩ := padded p _ _ (lengths hp |>.1)
  ⟨.fCmd, t, rfl, h⟩

theorem fwd : Statement .fwd := fun p hp =>
  let ⟨t, h⟩ := padded p _ _ (lengths hp |>.1)
  ⟨.fCmd, t, rfl, h⟩

theorem chkMem : Statement .chkMem := fun p hp =>
  let ⟨t, h⟩ := padded p _ _ (lengths hp |>.1)
  ⟨.fCmd, t, rfl, h⟩

theorem extclk : Statement .extclk := fun p hp =>
  let ⟨t, h⟩ := padded p _ _ (lengths hp |>.1)
  ⟨.fCmd, t, rfl, h⟩

theorem setPlay (start last : Addr) : Statement (.setPlay start last) := fun p hp =>
  let ⟨t, h⟩ := ranged p _ start last (lengths hp |>.2.2.2)
  ⟨.fRng, t, rfl, h⟩

theorem setRec (start last : Addr) : Statement (.setRec start last) := fun p hp =>
  let ⟨t, h⟩ := ranged p _ start last (lengths hp |>.2.2.2)
  ⟨.fRng, t, rfl, h⟩

theorem setErase (start last : Addr) : Statement (.setErase start last) := fun p hp =>
  let ⟨t, h⟩ := ranged p _ start last (lengths hp |>.2.2.2)
  ⟨.fRng, t, rfl, h⟩

end Sys2Proof.Laws.FrameShape
end

