-- ==== Sys2Proof/Laws/Sequencer.lean ====
section
/-! SUPPORT. The sequencer's path through an operation: every part of the pseudocode moves `SEQ` by transitions of
R290 only, and leaves it in a working state or, when it raises, where the code that it raises is raised. -/

namespace Sys2Proof.Machine

/-- From `a`, by the transitions to the states of the list in turn, to `b`. -/
def seqPath : SeqState → List SeqState → SeqState → Prop
  | a, [], b => a = b
  | a, q :: qs, b => seqStep a q = true ∧ seqPath q qs b

theorem seqPath_append {a b c : SeqState} {ps qs : List SeqState} (h : seqPath a ps b)
    (k : seqPath b qs c) : seqPath a (ps ++ qs) c := by
  induction ps generalizing a with
  | nil => cases h; exact k
  | cons p ps ih => exact ⟨h.1, ih h.2⟩

/-- A legal path with a legal continuation is a legal path. -/
theorem seqPathLegal_append {l qs : List SeqState} {a b : SeqState} (hl : seqPathLegal l = true)
    (hlast : l.getLast? = some a) (h : seqPath a qs b) :
    seqPathLegal (l ++ qs) = true ∧ (l ++ qs).getLast? = some b := by
  induction l with
  | nil => simp at hlast
  | cons x xs ih =>
      cases xs with
      | nil =>
          obtain rfl : x = a := by simpa using hlast
          clear ih hl hlast
          induction qs generalizing x with
          | nil => cases h; simp [seqPathLegal]
          | cons q qs ih =>
              obtain ⟨h1, h2⟩ := h
              have := ih q h2
              simp only [List.cons_append, List.nil_append] at this ⊢
              exact ⟨by simp [seqPathLegal, h1, this.1], by simpa using this.2⟩
      | cons y ys =>
          simp only [seqPathLegal, Bool.and_eq_true] at hl
          have := ih hl.2 (by simpa using hlast)
          simp only [List.cons_append] at this ⊢
          exact ⟨by simp [seqPathLegal, hl.1, this.1], by simpa using this.2⟩

/-- What every part of an operation does to the instance, the trace and the sequencer. -/
structure Moves (s t : State) : Prop where
  inst : instanceKept s t
  trace : ∃ es, t.trace = s.trace ++ es ∧ (s.params.valid = true → commandEvents s.params es)
  path : ∃ qs, t.seqLog = s.seqLog ++ qs ∧ seqPath s.seq qs t.seq
  cnt : s.timeoutCnt < 2 ^ s.params.tw → t.timeoutCnt < 2 ^ s.params.tw

theorem Moves.trans {a b c : State} (h : Moves a b) (k : Moves b c) : Moves a c := by
  obtain ⟨ps, h1, h2⟩ := h.path
  obtain ⟨qs, k1, k2⟩ := k.path
  exact ⟨instanceKept_trans h.inst k.inst, traceKept_trans h.inst.2.2.1 h.trace k.trace,
    ⟨ps ++ qs, by rw [k1, h1, List.append_assoc], seqPath_append h2 k2⟩,
    fun hc => by have := k.cnt; rw [h.inst.2.2.1] at this; exact this (h.cnt hc)⟩

theorem Quiet.moves {s t : State} (h : Quiet s t) : Moves s t :=
  ⟨h.inst, h.trace, ⟨[], by simp [h.seqLog], h.seq.symm⟩, fun hc => by rw [h.cnt]; exact hc⟩

theorem Moves.refl (s : State) : Moves s s := (Quiet.refl s).moves

theorem moves_setSeq (s : State) {q : SeqState} (h : seqStep s.seq q = true) : Moves s (s.setSeq q) :=
  ⟨by simp [instanceKept], ⟨[], by simp, fun _ e he => by simp at he⟩,
    ⟨[q], by simp, h, by simp [seqPath]⟩, id⟩

/-- The timeout counter holds a number of `TW` bits, whatever is written to it (R31). -/
theorem setTimeoutCnt_lt (s : State) (n : Nat) : (s.setTimeoutCnt n).timeoutCnt < 2 ^ s.params.tw :=
  Nat.mod_lt _ (Nat.two_pow_pos _)

/-- The counter is written and the sequencer enters `Polling`. -/
theorem moves_polling (s : State) (n : Nat) (h : seqStep s.seq .polling = true) :
    Moves s ((s.setTimeoutCnt n).setSeq .polling) :=
  ⟨⟨rfl, rfl, rfl, rfl⟩, ⟨[], by simp, fun _ e he => by simp at he⟩, ⟨[.polling], rfl, h, rfl⟩,
    fun _ => setTimeoutCnt_lt s n⟩

/-- The sequencer is at work on an operation. -/
def working (q : SeqState) : Prop := q = .commandIssued ∨ q = .polling

/-- Where the sequencer may stand when `e` is raised (R275, R290); INIT raises after its `RELEASE()`. -/
def raisedAt (e : ErrCode) (q : SeqState) : Prop :=
  match e with
  | .ok => False
  | .chipReportedError => q = .commandError ∨ working q
  | .timeout => q = .timedOut ∨ working q
  | .invalidArgument | .notInitialized | .communicationFailure | .identityMismatch
  | .unknownVariant | .missingBinding => working q

/-- A part of the pseudocode that starts at `s`, and leaves the sequencer as `P` says when it goes on. -/
def EndsWell (s : State) (P : SeqState → Prop) (r : Res) : Prop :=
  match r with
  | .ok t => Moves s t ∧ P t.seq
  | .err e t => Moves s t ∧ raisedAt e t.seq
  | .stuck => True

theorem EndsWell.andThen {s : State} {P Q : SeqState → Prop} {r : Res} {k : State → Res}
    (h : EndsWell s P r) (hk : ∀ t, P t.seq → EndsWell t Q (k t)) : EndsWell s Q (r.andThen k) := by
  cases r with
  | stuck => trivial
  | err e t => exact h
  | ok t =>
      have := hk t h.2
      simp only [andThen_ok]
      cases hr : k t with
      | stuck => trivial
      | ok u => rw [hr] at this; exact ⟨h.1.trans this.1, this.2⟩
      | err e u => rw [hr] at this; exact ⟨h.1.trans this.1, this.2⟩

theorem EndsWell.mono {s : State} {P Q : SeqState → Prop} {r : Res} (h : EndsWell s P r)
    (hPQ : ∀ q, P q → Q q) : EndsWell s Q r := by
  cases r with
  | stuck => trivial
  | err e t => exact h
  | ok t => exact ⟨h.1, hPQ _ h.2⟩

/-- An operation part raises only codes that end in `Completed`. -/
def Res.plain (r : Res) : Prop :=
  match r with
  | .err e _ => e ≠ .ok ∧ terminalOf e = .completed
  | .ok _ | .stuck => True

theorem Res.plain_andThen {r : Res} {k : State → Res} (h : r.plain) (hk : ∀ t, (k t).plain) :
    (r.andThen k).plain := by
  cases r with
  | ok t => exact hk t
  | err e t => exact h
  | stuck => trivial

/-- A quiet part of an operation that raises only codes of `Completed` ends well. -/
theorem EndsWell.of_quiet {s : State} {r : Res} (h : r.sat (Quiet s)) (hp : r.plain)
    (hs : working s.seq) : EndsWell s (fun q => q = s.seq) r := by
  cases r with
  | stuck => trivial
  | ok t => exact ⟨Quiet.moves h, h.seq⟩
  | err e t =>
      refine ⟨Quiet.moves h, ?_⟩
      have hw : working t.seq := by rw [Quiet.seq h]; exact hs
      have h0 := hp.1
      have hp := hp.2
      cases e <;> simp_all [terminalOf, raisedAt]

theorem portReturns_plain (s : State) : (portReturns s).plain := by
  unfold portReturns; split <;> trivial

theorem portCall_plain (event : Bool → Event) (s : State) : (portCall event s).plain :=
  Res.plain_andThen (portReturns_plain s) fun t => by split <;> simp [Res.plain, terminalOf]

theorem delay_plain (ms : Nat) (s : State) : (delay ms s).plain := by
  unfold delay
  split
  · trivial
  · exact Res.plain_andThen (portReturns_plain s) fun t => trivial

theorem sendFrame_plain (i : Instr) (s : State) : (sendFrame i s).plain :=
  Res.plain_andThen (portReturns_plain _) fun t => by split <;> simp [Res.plain, terminalOf]

theorem statusRead_plain (settle : Nat) (s : State) : (statusRead settle s).plain :=
  Res.plain_andThen (sendFrame_plain _ s) fun t => by
    split
    · exact Res.plain_andThen (sendFrame_plain _ _) (delay_plain settle)
    · trivial

theorem rangeCheck_plain (a b : Addr) (s : State) : (rangeCheck a b s).plain := by
  unfold rangeCheck; split <;> simp [Res.plain, terminalOf]

theorem apcRead_plain (s : State) : (apcRead s).plain :=
  Res.plain_andThen (sendFrame_plain _ s) fun _ => trivial

theorem apcWrite_plain (w : Word12) (src : VolSrc) (s : State) : (apcWrite w src s).plain := by
  cases src <;> exact sendFrame_plain _ s

theorem apcFieldSet_plain (f : ApcField) (v : Word12) (s : State) : (apcFieldSet f v s).plain :=
  Res.plain_andThen (apcRead_plain s) fun _ => apcWrite_plain _ _ _

theorem requireInit_plain (s : State) : (requireInit s).plain := by
  unfold requireInit; split <;> simp [Res.plain, terminalOf]

theorem checkCmdErr_ends (s : State) (hs : working s.seq) :
    EndsWell s (fun q => q = s.seq) (checkCmdErr s) := by
  unfold checkCmdErr
  split
  · refine ⟨moves_setSeq s ?_, .inl rfl⟩
    rcases hs with h | h <;> rw [h] <;> rfl
  · exact ⟨Moves.refl s, rfl⟩

theorem statusCheck_ends (settle : Nat) (s : State) (hs : working s.seq) :
    EndsWell s (fun q => q = s.seq) ((statusRead settle s).andThen checkCmdErr) :=
  (EndsWell.of_quiet (statusRead_sat settle s) (statusRead_plain settle s) hs).andThen fun t ht =>
    (checkCmdErr_ends t (ht ▸ hs)).mono fun _ h => h.trans ht

theorem pollLoop_ends (mask : Byte) (settle : Nat) (n : Nat) (s : State) (hs : s.seq = .polling) :
    EndsWell s (fun q => q = .polling) (pollLoop mask settle n s) := by
  induction n generalizing s with
  | zero => exact ⟨moves_setSeq s (by rw [hs]; rfl), .inl rfl⟩
  | succ n ih =>
      refine (statusCheck_ends settle s (.inr hs)).andThen fun t ht => ?_
      rw [hs] at ht
      split
      · exact ⟨Moves.refl t, ht⟩
      · refine (EndsWell.of_quiet (delay_sat 10 t) (delay_plain 10 t) (.inr ht)).andThen fun u hu => ?_
        rw [ht] at hu
        have hm := moves_polling u (u.timeoutCnt - 1) (by rw [hu]; rfl)
        have := ih ((u.setTimeoutCnt (u.timeoutCnt - 1)).setSeq .polling) rfl
        cases hr : pollLoop mask settle n ((u.setTimeoutCnt (u.timeoutCnt - 1)).setSeq .polling) with
        | stuck => trivial
        | ok v => rw [hr] at this; exact ⟨hm.trans this.1, this.2⟩
        | err e v => rw [hr] at this; exact ⟨hm.trans this.1, this.2⟩

theorem checkPoll_ends (mask : Byte) (timeout settle : Nat) (s : State) (hs : s.seq = .commandIssued) :
    EndsWell s (fun q => q = .polling) (checkPoll mask timeout settle s) := by
  refine (EndsWell.of_quiet (delay_sat settle s) (delay_plain settle s) (.inl hs)).andThen fun t ht => ?_
  rw [hs] at ht
  have hm := moves_polling t (timeoutLoad timeout) (by rw [ht]; rfl)
  have := pollLoop_ends mask settle (t.setTimeoutCnt (timeoutLoad timeout)).timeoutCnt
    ((t.setTimeoutCnt (timeoutLoad timeout)).setSeq .polling) rfl
  cases hr : pollLoop mask settle (t.setTimeoutCnt (timeoutLoad timeout)).timeoutCnt
      ((t.setTimeoutCnt (timeoutLoad timeout)).setSeq .polling) with
  | stuck => trivial
  | ok v => rw [hr] at this; exact ⟨hm.trans this.1, this.2⟩
  | err e v => rw [hr] at this; exact ⟨hm.trans this.1, this.2⟩

theorem checkNoPoll_ends (settle : Nat) (s : State) (hs : s.seq = .commandIssued) :
    EndsWell s (fun q => q = .commandIssued) (checkNoPoll settle s) := by
  refine EndsWell.andThen (P := fun q => q = .commandIssued) ?_ fun t ht => ?_
  · refine (EndsWell.of_quiet (delay_sat settle s) (delay_plain settle s) (.inl hs)).andThen
      fun t ht => ?_
    rw [hs] at ht
    exact (EndsWell.of_quiet (statusRead_sat settle t) (statusRead_plain settle t) (.inl ht)).mono
      fun _ h => h.trans ht
  · exact (checkCmdErr_ends t (.inl ht)).mono fun _ h => h.trans ht

/-- A post-check, whatever the table's entry: it ends well from `CommandIssued` (R200). -/
theorem runPostCheck_ends (c : PostCheck) (s : State) (hs : s.seq = .commandIssued) :
    EndsWell s working (runPostCheck c s) := by
  unfold runPostCheck
  split
  · exact ⟨Moves.refl s, .inl hs⟩
  · exact (EndsWell.of_quiet (delay_sat _ s) (delay_plain _ s) (.inl hs)).mono
      fun _ h => .inl (h.trans hs)
  · exact (checkNoPoll_ends _ s hs).mono fun _ h => .inl h
  · exact (checkPoll_ends _ _ _ s hs).mono fun _ h => .inr h

/-- A quiet part that raises only codes of `Completed`, and the post-check after it. -/
theorem postChecked_ends {s : State} {r : Res} (c : PostCheck) (h : r.sat (Quiet s)) (hp : r.plain)
    (hs : s.seq = .commandIssued) : EndsWell s working (r.andThen (runPostCheck c)) :=
  (EndsWell.of_quiet h hp (.inl hs)).andThen fun t ht => runPostCheck_ends c t (ht.trans hs)

/-- A command and its post-check (R200): it ends well from `CommandIssued`. -/
theorem command_ends (i : Instr) (s : State) (hs : s.seq = .commandIssued) :
    EndsWell s working (command i s) :=
  postChecked_ends _ (sendFrame_sat i s) (sendFrame_plain i s) hs

/-- A part of INIT or DEINIT that may have polled goes on from `CommandIssued` (R290). -/
theorem proceed_ends {s : State} {r : Res} (h : EndsWell s working r) :
    EndsWell s (fun q => q = .commandIssued) r.proceed := by
  refine h.andThen fun t ht => ?_
  unfold State.proceed
  split
  · exact ⟨moves_setSeq t (by rw [‹t.seq = .polling›]; rfl), rfl⟩
  · exact ⟨Moves.refl t, ht.resolve_right ‹_›⟩

/-! ## The handle under the polling parts -/

theorem handleKept_of_eq {s t : State} (h1 : t.chipVariant = s.chipVariant) (h2 : t.endAddress = s.endAddress)
    (h3 : t.volSrc = s.volSrc) (h4 : t.initialized = s.initialized)
    (h5 : t.interruptDone = s.interruptDone) : handleKept s t := ⟨h1, h2, h3, h4, h5⟩

theorem handle_chain {r : Res} {k : State → Res} {s : State} (h : r.sat (handleKept s))
    (hk : ∀ t, (k t).sat (handleKept t)) : (r.andThen k).sat (handleKept s) :=
  Res.sat_chain (R := handleKept) handleKept_trans h hk

theorem handle_of_quiet {r : Res} {s : State} (h : r.sat (Quiet s)) : r.sat (handleKept s) :=
  Res.sat_mono h fun _ h => h.handle

theorem checkCmdErr_handle (s : State) : (checkCmdErr s).sat (handleKept s) := by
  unfold checkCmdErr; split <;> exact handleKept_refl s

theorem pollLoop_handle (mask : Byte) (settle : Nat) (n : Nat) (s : State) :
    (pollLoop mask settle n s).sat (handleKept s) := by
  induction n generalizing s with
  | zero => exact handleKept_refl s
  | succ n ih =>
      refine handle_chain (handle_chain (handle_of_quiet (statusRead_sat settle s)) checkCmdErr_handle)
        fun t => ?_
      split
      · exact handleKept_refl t
      · exact handle_chain (handle_of_quiet (delay_sat 10 t)) fun u => ih _

theorem checkPoll_handle (mask : Byte) (timeout settle : Nat) (s : State) :
    (checkPoll mask timeout settle s).sat (handleKept s) :=
  handle_chain (handle_of_quiet (delay_sat settle s)) fun _ => pollLoop_handle _ _ _ _

theorem checkNoPoll_handle (settle : Nat) (s : State) : (checkNoPoll settle s).sat (handleKept s) :=
  handle_chain (handle_chain (handle_of_quiet (delay_sat settle s))
    fun t => handle_of_quiet (statusRead_sat settle t)) checkCmdErr_handle

/-- No post-check writes a handle register (R200). -/
theorem runPostCheck_handle (c : PostCheck) (s : State) : (runPostCheck c s).sat (handleKept s) := by
  unfold runPostCheck
  split
  · exact handleKept_refl s
  · exact handle_of_quiet (delay_sat _ s)
  · exact checkNoPoll_handle _ s
  · exact checkPoll_handle _ _ _ s

/-- No command and post-check writes a handle register (R214). -/
theorem command_handle (i : Instr) (s : State) : (command i s).sat (handleKept s) :=
  handle_chain (handle_of_quiet (sendFrame_sat i s)) (runPostCheck_handle _)

/-! ## The end of an operation -/

theorem moves_endOk (s : State) (d : Option Data) (h : working s.seq) : Moves s (s.endOk d) := by
  refine ⟨by simp [instanceKept], ⟨[], by simp, fun _ e he => by simp at he⟩,
    ⟨[.completed, .idle], by simp, ?_⟩, by simp⟩
  rcases h with h | h <;> simp [seqPath, h, seqStep]

theorem moves_endErr (s : State) (e : ErrCode) (h : raisedAt e s.seq) : Moves s (s.endErr e) := by
  refine ⟨by simp [instanceKept], ⟨[], by simp, fun _ e he => by simp at he⟩, ?_, by simp⟩
  have hlog : (s.endErr e).seqLog = s.seqLog ++ [terminalOf e, .idle] ∧ working s.seq
      ∨ (s.endErr e).seqLog = s.seqLog ++ [.idle] ∧ s.seq = terminalOf e := by
    simp only [State.endErr_seqLog, State.enter]
    split
    · exact .inr ⟨rfl, ‹_›⟩
    · refine .inl ⟨by simp, ?_⟩
      cases e <;> simp_all [raisedAt, terminalOf]
  have hne : e ≠ .ok := by rintro rfl; exact h
  rcases hlog with ⟨h1, h2⟩ | ⟨h1, h2⟩
  · refine ⟨_, h1, ?_⟩
    rcases h2 with h2 | h2 <;> cases e <;> simp_all [seqPath, seqStep, terminalOf]
  · refine ⟨_, h1, ?_⟩
    cases e <;> simp_all [seqPath, seqStep, terminalOf]

/-- What an operation comes to, said once: its body ended in `t`, well, from the accepted request, and the next
state is the end of the operation there. -/
theorem operation_next {body : State → Res} {data : State → Option Data} {s u : State}
    (h : operation body data s = .next u) :
    s.seq = .idle ∧
      ((∃ t, body (s.setSeq .commandIssued) = .ok t ∧ u = t.endOk (data t))
        ∨ ∃ e t, body (s.setSeq .commandIssued) = .err e t ∧ u = t.endErr e) := by
  unfold operation at h
  split at h
  · rename_i hs
    refine ⟨hs, ?_⟩
    unfold finish at h
    split at h
    · rename_i t ht
      exact .inl ⟨t, ht, (Host.Outcome.next.inj h).symm⟩
    · rename_i e t ht
      exact .inr ⟨e, t, ht, (Host.Outcome.next.inj h).symm⟩
    · cases h
  · cases h

/-- An operation whose body ends well moves the whole machine by transitions of R290, back to `Idle`. -/
theorem operation_moves {body : State → Res} {data : State → Option Data} {s u : State}
    (hb : ∀ t, t.seq = .commandIssued → EndsWell t working (body t))
    (h : operation body data s = .next u) : Moves s u ∧ u.seq = .idle := by
  obtain ⟨hs, h⟩ := operation_next h
  have h0 : Moves s (s.setSeq .commandIssued) := moves_setSeq s (by rw [hs]; rfl)
  have he := hb (s.setSeq .commandIssued) rfl
  rcases h with ⟨t, ht, rfl⟩ | ⟨e, t, ht, rfl⟩
  · rw [ht] at he
    exact ⟨(h0.trans he.1).trans (moves_endOk t _ he.2), by simp⟩
  · rw [ht] at he
    exact ⟨(h0.trans he.1).trans (moves_endErr t e he.2), by simp⟩

/-- The handle after an operation is the handle its body leaves. -/
theorem operation_handle {body : State → Res} {data : State → Option Data} {s u : State}
    (hb : ∀ t, (body t).sat (handleKept t)) (h : operation body data s = .next u) :
    handleKept s u := by
  obtain ⟨_, h⟩ := operation_next h
  have hb := hb (s.setSeq .commandIssued)
  rcases h with ⟨t, ht, rfl⟩ | ⟨e, t, ht, rfl⟩
  · rw [ht] at hb
    exact handleKept_trans (handleKept_trans (by simp [handleKept]) hb) (by simp [handleKept])
  · rw [ht] at hb
    exact handleKept_trans (handleKept_trans (by simp [handleKept]) hb) (by simp [handleKept])

theorem requireInit_ends (s : State) (hs : s.seq = .commandIssued) :
    EndsWell s (fun q => q = .commandIssued) (requireInit s) :=
  (EndsWell.of_quiet (requireInit_sat s) (requireInit_plain s) (.inl hs)).mono fun _ h => h.trans hs

theorem gated_moves {body : State → Res} {data : State → Option Data} {s u : State}
    (hb : ∀ t, t.seq = .commandIssued → EndsWell t working (body t))
    (h : gated body data s = .next u) : Moves s u ∧ u.seq = .idle :=
  operation_moves (fun t ht => (requireInit_ends t ht).andThen hb) h

theorem gated_handle {body : State → Res} {data : State → Option Data} {s u : State}
    (hb : ∀ t, (body t).sat (handleKept t)) (h : gated body data s = .next u) : handleKept s u :=
  operation_handle (fun t => handle_chain (handle_of_quiet (requireInit_sat t)) hb) h

/-- A quiet body that raises only codes of `Completed`. -/
theorem ends_of_quiet_body {body : State → Res} (h : ∀ t, (body t).sat (Quiet t))
    (hp : ∀ t, (body t).plain) : ∀ t, t.seq = .commandIssued → EndsWell t working (body t) :=
  fun t ht => (EndsWell.of_quiet (h t) (hp t) (.inl ht)).mono fun _ h => .inl (h.trans ht)

/-! ## Notifications, `RELEASE()`, and `try` -/

theorem notify_sat (kind : EventKind) (s : State) : (notify kind s).sat (Quiet s) := by
  unfold notify
  split
  · exact Res.sat_andThen (portReturns_sat s) (fun _ h => h) fun t h => quiet_emit h rfl
  · exact Quiet.refl s

theorem notify_plain (kind : EventKind) (s : State) : (notify kind s).plain := by
  unfold notify
  split
  · exact Res.plain_andThen (portReturns_plain s) fun t => trivial
  · trivial

theorem andThen_ok_iff {r : Res} {k : State → Res} {u : State} :
    r.andThen k = .ok u ↔ ∃ t, r = .ok t ∧ k t = .ok u := by
  cases r <;> simp

theorem raisedAt_working {e : ErrCode} {q : SeqState} (he : e ≠ .ok) (h : working q) :
    raisedAt e q := by
  cases e <;> simp_all [raisedAt]

theorem raisedAt_ne_ok {e : ErrCode} {q : SeqState} (h : raisedAt e q) : e ≠ .ok := by
  rintro rfl; exact h

theorem backToIssued_moves (s : State) : Moves s s.backToIssued := by
  unfold State.backToIssued
  split
  · rename_i h
    exact moves_setSeq s (by rcases h with h | h <;> rw [h] <;> rfl)
  · exact Moves.refl s

theorem backToIssued_working {e : ErrCode} {s : State} (h : raisedAt e s.seq) :
    working s.backToIssued.seq := by
  unfold State.backToIssued
  split
  · exact .inl rfl
  · rename_i hn
    simp only [not_or] at hn
    cases e <;> simp_all [raisedAt]

/-- `RELEASE()` ignores both results (R252). -/
theorem release_ne_err (s t : State) (e : ErrCode) : release s ≠ .err e t := by
  unfold release
  cases phyDeinit s <;> simp [Res.ignoreErr] <;> (rename_i x; cases gpioDeinit x <;> simp)

theorem releaseAndRaise_ends {P : SeqState → Prop} {e : ErrCode} {s : State} (he : e ≠ .ok)
    (h : working s.backToIssued.seq) : EndsWell s P (releaseAndRaise e s) := by
  have hq := release_sat s.backToIssued
  unfold releaseAndRaise
  cases hr : release s.backToIssued with
  | stuck => trivial
  | err e u => exact absurd hr (release_ne_err _ _ _)
  | ok u =>
      rw [hr] at hq
      exact ⟨(backToIssued_moves s).trans (Quiet.moves hq),
        raisedAt_working he (by rw [Quiet.seq hq]; exact h)⟩

/-- `try X` ends as well as `X` (R252). -/
theorem orRelease_ends {s : State} {P : SeqState → Prop} {r : Res} (h : EndsWell s P r) :
    EndsWell s P r.orRelease := by
  cases r with
  | ok t => exact h
  | stuck => trivial
  | err e t =>
      have := releaseAndRaise_ends (P := P) (raisedAt_ne_ok h.2) (backToIssued_working h.2)
      simp only [Res.orRelease]
      cases hr : releaseAndRaise e t with
      | stuck => trivial
      | ok u => rw [hr] at this; exact ⟨h.1.trans this.1, this.2⟩
      | err e u => rw [hr] at this; exact ⟨h.1.trans this.1, this.2⟩

theorem orRelease_ok {r : Res} {t : State} : r.orRelease = .ok t ↔ r = .ok t := by
  cases r <;> simp [Res.orRelease, releaseAndRaise, andThen_ok_iff]

/-- What the identification of INIT (steps 7 and 8) comes to when it goes on. -/
theorem identify_ok {id : Byte} {s t : State} (h : identify id s = .ok t) :
    ∃ v, variantOfCode s.chipVariant = some v ∧ id = deviceIdOf s.params v
      ∧ t = s.setEndAddress (endAddrOf v) := by
  have hn : ∀ e, releaseAndRaise e s ≠ .ok t := by
    intro e hc
    simp [releaseAndRaise, andThen_ok_iff] at hc
  unfold identify at h
  split at h
  · exact absurd h (hn _)
  · rename_i v hv
    split at h
    · cases h
      exact ⟨v, hv, ‹_›, rfl⟩
    · exact absurd h (hn _)

end Sys2Proof.Machine
end

