-- ==== Sys2Proof/Tests/Slice0.lean ====
section
/-! SUPPORT. Tests: ill-formed terms refused, every constructor decoded from a word written out from its row of
spec/opcode_table.json, the vectors and program steps of 95_test_vectors.md (one step each), and for every
statement with hypotheses a witness that meets them. -/

namespace Sys2Proof.Tests

open Sys2Proof.Machine

/-! ## Helpers -/

/-- A frame buffer from its first bytes, the rest zero. -/
def buffer (l : List Byte) : FrameBuffer := Vector.ofFn fun i => l.getD i.val 0

/-- A port call that succeeds, with the chip's answer given as logical bytes. -/
def yes (l : List Byte) : Answer := ⟨true, buffer (l.map bitrev8)⟩

/-- A port call that fails. -/
def no : Answer := ⟨false, buffer []⟩

/-- The test instantiation of 95_test_vectors.md: `DEVICE_ID[v]` is 0x14. -/
def testParams : Params := Params.withIds (Vector.replicate 10 0x14)

/-- After engine reset and `SET_TYPE ISD1760`, with these answers to come. -/
def down (answers : List Answer) : State :=
  { State.reset with params := testParams, chipVariant := 3, answers := answers }

/-- As after program P1. -/
def up (answers : List Answer) : State :=
  { down answers with initialized := true, endAddress := 0x1EF, volSrc := .register }

/-- A post-check table with entries of other kinds than R200 prints. -/
def otherChecks : PostChecks :=
  { PostChecks.printed with
    stop := .settle 5, play := .nothing, setEraseRange := .errorCheck 30, loadNvConfig := .poll (.bits 0x80) 10 5,
    writeNvConfig := .poll (.bits 0x80) 9 5,
    readPlayPointer := .errorCheck 0, readDeviceId := .errorCheck 0, readApc := .errorCheck 0,
    setField := Vector.replicate 10 (.settle 7) }

/-- As `up`, with that table and times of ten bits. -/
def upOther (answers : List Answer) : State :=
  { up answers with params := { testParams with postCheck := otherChecks, tw := 10 } }

/-- What a step's next state satisfies. -/
def after (o : Host.Outcome State Fault Refusal) (f : State → Bool) : Bool :=
  match o with
  | .next s => f s
  | .fault _ => false
  | .refused _ => false

theorem next_of_after {o : Host.Outcome State Fault Refusal} {f : State → Bool} (h : after o f = true) :
    ∃ t, o = .next t ∧ f t = true := by
  cases o with
  | next t => exact ⟨t, rfl, h⟩
  | fault _ => cases h
  | refused _ => cases h

/-- The engine takes the request `o` and ends with `e`, its trace being `events`. -/
def ends (s : State) (o : HostOp) (e : ErrCode) (events : List Event) : Bool :=
  after (step { s with inputs := [.op o] }) fun t => decide (t.result = e) && decide (t.trace = events)

/-- `ends`, with the data. -/
def gives (s : State) (o : HostOp) (d : Data) (events : List Event) : Bool :=
  ends s o .ok events && after (step { s with inputs := [.op o] }) fun t => decide (t.rdata = d)

/-! ## WellFormed: every check refuses an ill-formed term -/

theorem test_wf_setPlay_start : (Instr.setPlay 0x800 0x010).wellFormed = false := by decide
theorem test_wf_setPlay_last : (Instr.setPlay 0x010 0x800).wellFormed = false := by decide
theorem test_wf_setRec_start : (Instr.setRec 0xFFFF 0x010).wellFormed = false := by decide
theorem test_wf_setRec_last : (Instr.setRec 0x010 0x800).wellFormed = false := by decide
theorem test_wf_setErase_start : (Instr.setErase 0x800 0x010).wellFormed = false := by decide
theorem test_wf_setErase_last : (Instr.setErase 0x010 0x9EF).wellFormed = false := by decide
theorem test_wf_top : (Instr.setErase 0x000 0x7FF).wellFormed = true := by decide

/-! ## Decoding: each row's "encoding", byte 0 first, its operand bits filled in -/

theorem test_decode_pu : decode [0b00000001, 0b00000000] = .ok .pu := by decide
theorem test_decode_stop : decode [0b00000010, 0b00000000] = .ok .stop := by decide
theorem test_decode_reset : decode [0b00000011, 0b00000000] = .ok .reset := by decide
theorem test_decode_clrInt : decode [0b00000100, 0b00000000] = .ok .clrInt := by decide
theorem test_decode_rdStatus : decode [0b00000101, 0, 0] = .ok .rdStatus := by decide
theorem test_decode_rdPlayPtr : decode [0b00000110, 0, 0, 0] = .ok .rdPlayPtr := by decide
theorem test_decode_pd : decode [0b00000111, 0b00000000] = .ok .pd := by decide
theorem test_decode_rdRecPtr : decode [0b00001000, 0, 0, 0] = .ok .rdRecPtr := by decide
theorem test_decode_rdDevid : decode [0b00001001, 0, 0] = .ok .rdDevid := by decide
theorem test_decode_play : decode [0b01000000, 0b00000000] = .ok .play := by decide
theorem test_decode_record : decode [0b01000001, 0b00000000] = .ok .record := by decide
theorem test_decode_erase : decode [0b01000010, 0b00000000] = .ok .erase := by decide
theorem test_decode_gErase : decode [0b01000011, 0b00000000] = .ok .gErase := by decide
theorem test_decode_rdApc : decode [0b01000100, 0, 0, 0] = .ok .rdApc := by decide
theorem test_decode_wrApcBtn :
    decode [0b01000101, 0b00100011, 0b00000100] = .ok (.wrApcBtn 0x423) := by decide
theorem test_decode_wrApcReg :
    decode [0b01100101, 0b11111111, 0b00001111] = .ok (.wrApcReg 0xFFF) := by decide
theorem test_decode_wrNvcfg : decode [0b01000110, 0b00000000] = .ok .wrNvcfg := by decide
theorem test_decode_ldNvcfg : decode [0b01000111, 0b00000000] = .ok .ldNvcfg := by decide
theorem test_decode_fwd : decode [0b01001000, 0b00000000] = .ok .fwd := by decide
theorem test_decode_chkMem : decode [0b01001001, 0b00000000] = .ok .chkMem := by decide
theorem test_decode_extclk : decode [0b01001010, 0b00000000] = .ok .extclk := by decide
theorem test_decode_setPlay :
    decode [0b10000000, 0, 0b00010000, 0b00000000, 0b11111111, 0b00000000, 0]
      = .ok (.setPlay 0x010 0x0FF) := by decide
theorem test_decode_setRec :
    decode [0b10000001, 0, 0b11101110, 0b00000001, 0b11101111, 0b00000001, 0]
      = .ok (.setRec 0x1EE 0x1EF) := by decide
theorem test_decode_setErase :
    decode [0b10000010, 0, 0b00000000, 0b00000101, 0b10001111, 0b00000111, 0]
      = .ok (.setErase 0x500 0x78F) := by decide

/-- A bit that the row's pattern fixes at zero, a length the format does not have, an unknown opcode. -/
theorem test_decode_rejects :
    decode [] = .error .empty ∧ decode [0x0A, 0] = .error (.notACommand 0x0A)
      ∧ decode [0x01] = .error (.tooShort 0x01) ∧ decode [0x01, 0, 0] = .error (.tooLong 0x01)
      ∧ decode [0x01, 1] = .error (.badPadding 0x01)
      ∧ decode [0x65, 0, 0x10] = .error (.badPadding 0x65)
      ∧ decode [0x80, 0, 0, 0x08, 0, 0, 0] = .error (.badPadding 0x80) := by decide

/-! ## Vectors of the pure functions -/

/-- V10. -/
theorem test_bitrev :
    ([0x00, 0x0F, 0x10, 0x34, 0x55, 0x7F, 0x8F, 0xA0, 0xAA, 0xF0, 0xFE, 0xFF] : List Byte).map bitrev8
      = [0x00, 0xF0, 0x08, 0x2C, 0xAA, 0xFE, 0xF1, 0x05, 0x55, 0x0F, 0x7F, 0xFF] := by decide

/-- V12, the words written. -/
theorem test_apc_insert :
    apcInsert testParams .volume 3 0x440 = 0x443 ∧ apcInsert testParams .volume 0 0x447 = 0x440
      ∧ apcInsert testParams .monitorInput 1 0x440 = 0x448 ∧ apcInsert testParams .mixInput 1 0x440 = 0x450
      ∧ apcInsert testParams .seEditing 0 0x440 = 0x460 ∧ apcInsert testParams .seEditing 1 0x4E0 = 0x4C0
      ∧ apcInsert testParams .spiFt 1 0x440 = 0x400 ∧ apcInsert testParams .analogOutput 1 0x440 = 0x4C0
      ∧ apcInsert testParams .pwmSpeaker 0 0x440 = 0x540
      ∧ apcInsert testParams .puAnalogOutput 0 0x440 = 0x640
      ∧ apcInsert testParams .voltageAlert 1 0x440 = 0x040 ∧ apcInsert testParams .eomStop 1 0x440 = 0xC40
      ∧ apcInsert testParams .eomStop 0 0xFFF = 0x7FF := by decide

/-- V12, the getters on 0x440. -/
theorem test_apc_extract :
    ([.volume, .monitorInput, .mixInput, .seEditing, .spiFt, .analogOutput, .pwmSpeaker,
      .puAnalogOutput, .voltageAlert, .eomStop] : List ApcField).map (apcExtract testParams · 0x440)
      = [0, 0, 0, 1, 0, 0, 1, 1, 0, 0] := by decide

/-- V14, the device-id and pointer decode. -/
theorem test_response_decode :
    rxDeviceId (buffer [0, 0, 0xA7]) = 0x14 ∧ rxDeviceId (buffer [0, 0, 0xA8]) = 0x15
      ∧ rxDeviceId (buffer [0, 0, 0x07]) = 0 ∧ rxPointer (buffer [0, 0, 0xFF, 0xFF]) = 0x7FF
      ∧ rxPointer (buffer [0, 0, 0x00, 0xF8]) = 0 ∧ rxApc (buffer [0, 0, 0x23, 0xF4]) = 0x423 := by decide

/-! ## Steps of the programs -/

/-- P1. -/
def p1 : State :=
  down [yes [], yes [], yes [], yes [], yes [], yes [0x04, 0x00, 0x01], yes [0x04, 0x00, 0x00],
    yes [0x04, 0x00, 0xA0], yes []]

theorem test_p1_init_trace : ends p1 .init .ok
    [.phyInit true, .gpioInit true, .gpioWrite true true, .delay 1, .gpioWrite false true, .delay 1,
      .xfer [0x80, 0x00] [0x00, 0x00], .delay 100,
      .xfer [0xA0, 0x00, 0x00] [0x20, 0x00, 0x80], .delay 10, .xfer [0xA0, 0x00, 0x00] [0x20, 0x00, 0x00],
      .xfer [0x90, 0x00, 0x00] [0x20, 0x00, 0x05], .xfer [0xC0, 0x00] [0x00, 0x00], .delay 100]
    = true := by decide

theorem test_p1_init_state : after (step { p1 with inputs := [.op .init] }) (fun t =>
    decide (t.endAddress = 0x1EF ∧ t.volSrc = .register ∧ t.initialized = true ∧ t.status1 = 0x0004
      ∧ t.timeoutCnt = 99 ∧ t.seq = .idle)) = true := by decide

/-- P2. -/
theorem test_p2_setPlayRange : ends (up [yes []]) (.setPlayRange 0x010 0x0FF) .ok
    [.xfer [0x01, 0x00, 0x08, 0x00, 0xFF, 0x00, 0x00] [0, 0, 0, 0, 0, 0, 0], .delay 500] = true := by decide

theorem test_p2_play : ends (up [yes []]) .play .ok [.xfer [0x02, 0x00] [0, 0], .delay 500] = true := by
  decide

/-- P2: the poll that consumes an EOM. -/
def p2 : State := up [yes [0x04, 0x00, 0x05], yes [0x04, 0x00, 0x05], yes [0x0C, 0x00, 0x01], yes []]

theorem test_p2_pollWait_trace : ends p2 (.pollWait 0x04 5000 0) .ok
    [.xfer [0xA0, 0x00, 0x00] [0x20, 0x00, 0xA0], .delay 10, .xfer [0xA0, 0x00, 0x00] [0x20, 0x00, 0xA0],
      .delay 10, .xfer [0xA0, 0x00, 0x00] [0x30, 0x00, 0x80], .xfer [0x20, 0x00] [0x00, 0x00]] = true := by
  decide

theorem test_p2_pollWait_state : after (step { p2 with inputs := [.op (.pollWait 0x04 5000 0)] })
    (fun t => decide (t.status1 = 0x000C ∧ t.status2 = 0x01 ∧ t.timeoutCnt = 498)) = true := by decide

/-- P3. -/
theorem test_p3_setVolume : ends (up [yes [0, 0, 0x40, 0x04], yes []]) (.setVolume 3) .ok
    [.xfer [0x22, 0x00, 0x00, 0x00] [0x00, 0x00, 0x02, 0x20],
      .xfer [0xA6, 0xC2, 0x20] [0x00, 0x00, 0x00]] = true := by decide

theorem test_p3_getVolume : gives (up [yes [0, 0, 0x43, 0x04]]) .getVolume 3
    [.xfer [0x22, 0x00, 0x00, 0x00] [0x00, 0x00, 0xC2, 0x20]] = true := by decide

theorem test_p3_setVolume_8 : ends (up []) (.setVolume 8) .invalidArgument [] = true := by decide

theorem test_p3_setSeEditing : ends (up [yes [0, 0, 0x43, 0x04], yes []]) (.setSeEditing true) .ok
    [.xfer [0x22, 0x00, 0x00, 0x00] [0x00, 0x00, 0xC2, 0x20],
      .xfer [0xA6, 0xC2, 0x20] [0x00, 0x00, 0x00]] = true := by decide

theorem test_p3_getSeEditing : gives (up [yes [0, 0, 0x23, 0xF4]]) .getSeEditing 0
    [.xfer [0x22, 0x00, 0x00, 0x00] [0x00, 0x00, 0xC4, 0x2F]] = true := by decide

theorem test_p3_setVolumeControl : ends (up [yes [0, 0, 0x23, 0x04], yes []]) (.setVolumeControl .button)
    .ok [.xfer [0x22, 0x00, 0x00, 0x00] [0x00, 0x00, 0xC4, 0x20],
      .xfer [0xA2, 0xC4, 0x20] [0x00, 0x00, 0x00]] = true := by decide

theorem test_p3_setMixInput_button :
    ends { up [yes [0, 0, 0x23, 0x04], yes []] with volSrc := .button } (.setMixInput true) .ok
      [.xfer [0x22, 0x00, 0x00, 0x00] [0x00, 0x00, 0xC4, 0x20],
        .xfer [0xA2, 0xCC, 0x20] [0x00, 0x00, 0x00]] = true := by decide

theorem test_p3_reset : ends (up [yes []]) .reset .ok [.xfer [0xC0, 0x00] [0, 0], .delay 100] = true := by
  decide

/-- P4. -/
theorem test_p4_ranges_refused :
    ends (up []) (.setEraseRange 0x050 0x010) .invalidArgument [] = true
      ∧ ends (up []) (.setEraseRange 0x010 0x010) .invalidArgument [] = true
      ∧ ends (up []) (.setPlayRange 0x010 0x1F0) .invalidArgument [] = true
      ∧ ends (up []) (.setRecordRange 0x000 0x9EF) .invalidArgument [] = true := by decide

theorem test_p4_setRecordRange : ends (up [yes []]) (.setRecordRange 0x1EE 0x1EF) .ok
    [.xfer [0x81, 0x00, 0x77, 0x80, 0xF7, 0x80, 0x00] [0, 0, 0, 0, 0, 0, 0], .delay 500] = true := by decide

/-- P5. -/
theorem test_p5_irq_eom_int :
    after (step { up [yes [0x18, 0x00, 0x01], yes []] with
      eventCbPresent := true, inputs := [.op .irqHandler] }) (fun t =>
        decide (t.interruptDone = true ∧ t.trace = [.xfer [0xA0, 0x00, 0x00] [0x18, 0x00, 0x80],
          .xfer [0x20, 0x00] [0x00, 0x00], .event .eom, .event .int])) = true := by decide

theorem test_p5_irq_sticky :
    after (step { up [yes [0x04, 0x00, 0x01]] with
      interruptDone := true, eventCbPresent := true, inputs := [.op .irqHandler] }) (fun t =>
        decide (t.interruptDone = true ∧ t.trace = [.xfer [0xA0, 0x00, 0x00] [0x20, 0x00, 0x80]]))
      = true := by decide

theorem test_p5_getStatus : gives (up [yes [0x10, 0x00, 0x01], yes []]) .getStatus 0x0010
    [.xfer [0xA0, 0x00, 0x00] [0x08, 0x00, 0x80], .xfer [0x20, 0x00] [0x00, 0x00]] = true := by decide

theorem test_p5_irq_clear_fails :
    ends { up [yes [0x08, 0x00, 0x01], no] with eventCbPresent := true } .irqHandler .communicationFailure
      [.xfer [0xA0, 0x00, 0x00] [0x10, 0x00, 0x80], .xferFail [0x20, 0x00]] = true := by decide

/-- P6. -/
theorem test_p6_timeout : ends (up [yes [4, 0, 2], yes [4, 0, 2], yes [4, 0, 2]]) (.pollWait 0x02 35 0)
    .timeout [.xfer [0xA0, 0x00, 0x00] [0x20, 0x00, 0x40], .delay 10,
      .xfer [0xA0, 0x00, 0x00] [0x20, 0x00, 0x40], .delay 10,
      .xfer [0xA0, 0x00, 0x00] [0x20, 0x00, 0x40], .delay 10] = true := by decide

theorem test_p6_timeout_below_ten : ends (up []) (.pollWait 0x02 9 50) .timeout [.delay 50] = true := by
  decide

theorem test_p6_error_after_clear :
    ends (up [yes [0x11, 0x00, 0x02], yes []]) (.pollWait 0x02 1000 0) .chipReportedError
      [.xfer [0xA0, 0x00, 0x00] [0x88, 0x00, 0x40], .xfer [0x20, 0x00] [0x00, 0x00]] = true := by decide

theorem test_p6_stop_error : ends (up [yes [], yes [0x01, 0x00, 0x00]]) .stop .chipReportedError
    [.xfer [0x40, 0x00] [0x00, 0x00], .xfer [0xA0, 0x00, 0x00] [0x80, 0x00, 0x00]] = true := by decide

theorem test_p6_powerUp : ends (up [yes [], yes [0x08, 0x00, 0x00], yes []]) .powerUp .ok
    [.xfer [0x80, 0x00] [0x00, 0x00], .delay 100, .xfer [0xA0, 0x00, 0x00] [0x10, 0x00, 0x00],
      .xfer [0x20, 0x00] [0x00, 0x00], .delay 100] = true := by decide

theorem test_p6_next_fails : ends (up [yes [], no]) .next .communicationFailure
    [.xfer [0x12, 0x00] [0x00, 0x00], .xferFail [0xA0, 0x00, 0x00]] = true := by decide

theorem test_p6_two_masked_bits :
    ends (up [yes [4, 0, 4], yes [4, 0, 8], yes [4, 0, 0]]) (.pollWait 0x0C 1000 0) .ok
      [.xfer [0xA0, 0x00, 0x00] [0x20, 0x00, 0x20], .delay 10,
        .xfer [0xA0, 0x00, 0x00] [0x20, 0x00, 0x10], .delay 10,
        .xfer [0xA0, 0x00, 0x00] [0x20, 0x00, 0x00]] = true := by decide

/-- P6: the sequencer's path. -/
theorem test_p6_path : after (step { up [yes [], yes [0x01, 0x00, 0x00]] with inputs := [.op .stop] })
    (fun t => decide (t.seqLog = [.idle, .commandIssued, .commandError, .idle])) = true := by decide

/-- P7. -/
theorem test_p7_deinit_discards_failure : ends (up [no, yes [], yes []]) .deinit .ok
    [.xferFail [0xE0, 0x00], .phyDeinit true, .gpioDeinit true] = true := by decide

theorem test_p7_deinit_close_fails :
    after (step { up [yes [], yes [0, 0, 0], yes [], no] with inputs := [.op .deinit] }) (fun t =>
      decide (t.result = .communicationFailure ∧ t.initialized = true
        ∧ t.trace = [.xfer [0xE0, 0x00] [0x00, 0x00], .xfer [0xA0, 0x00, 0x00] [0x00, 0x00, 0x00],
          .phyDeinit true, .gpioDeinit false])) = true := by decide

/-- P8. -/
theorem test_p8_gpioInit_fails : ends (down [yes [], no, yes []]) .init .communicationFailure
    [.phyInit true, .gpioInit false, .phyDeinit true] = true := by decide

theorem test_p8_second_write_fails :
    ends (down [yes [], yes [], yes [], no, yes [], yes []]) .init .communicationFailure
      [.phyInit true, .gpioInit true, .gpioWrite true true, .delay 1, .gpioWrite false false,
        .phyDeinit true, .gpioDeinit true] = true := by decide

/-- P8: answers up to the device-id frame, then the rest. -/
def p8 (id : Byte) (rest : List Answer) : List Answer :=
  [yes [], yes [], yes [], yes [], yes [], yes [0x04, 0x00, 0x00], yes [0x04, 0x00, id]] ++ rest

theorem test_p8_identityMismatch :
    after (step { down (p8 0xA8 [yes [], yes []]) with inputs := [.op .init] }) (fun t =>
      decide (t.result = .identityMismatch ∧ t.initialized = false ∧ t.endAddress = 0
        ∧ t.trace.drop 8 = [.xfer [0xA0, 0x00, 0x00] [0x20, 0x00, 0x00],
          .xfer [0x90, 0x00, 0x00] [0x20, 0x00, 0x15], .phyDeinit true, .gpioDeinit true])) = true := by
  decide

theorem test_p8_unknownVariant :
    after (step { down (p8 0xA0 [yes [], yes []]) with chipVariant := 12, inputs := [.op .init] })
      (fun t => decide (t.result = .unknownVariant)) = true := by decide

theorem test_p8_reset_fails :
    after (step { down (p8 0xA0 [no, yes [], yes []]) with inputs := [.op .init] }) (fun t =>
      decide (t.result = .communicationFailure ∧ t.initialized = false ∧ t.endAddress = 0x1EF
        ∧ t.volSrc = .button
        ∧ t.trace.drop 10 = [.xferFail [0xC0, 0x00], .phyDeinit true, .gpioDeinit true])) = true := by
  decide

/-- P9. -/
theorem test_p9_playPointer : gives (up [yes [0, 0, 0x34, 0x12]]) .readPlayPointer 0x234
    [.xfer [0x60, 0x00, 0x00, 0x00] [0x00, 0x00, 0x2C, 0x48]] = true := by decide

theorem test_p9_recordPointer : gives (up [yes [0, 0, 0x8F, 0x07]]) .readRecordPointer 0x78F
    [.xfer [0x10, 0x00, 0x00, 0x00] [0x00, 0x00, 0xF1, 0xE0]] = true := by decide

theorem test_p9_deviceId : gives (up [yes [0xFF, 0xFF, 0xA7]]) .readDeviceId 0x14
    [.xfer [0x90, 0x00, 0x00] [0xFF, 0xFF, 0xE5]] = true := by decide

theorem test_p9_readApc : gives (up [yes [0, 0, 0xFF, 0xFF]]) .readApc 0xFFF
    [.xfer [0x22, 0x00, 0x00, 0x00] [0x00, 0x00, 0xFF, 0xFF]] = true := by decide

theorem test_p9_writeApc : ends (up [yes []]) (.writeApc 0xFFF) .ok
    [.xfer [0xA6, 0xFF, 0xF0] [0x00, 0x00, 0x00]] = true := by decide

theorem test_p9_execute :
    ends (up [yes []]) .record .ok [.xfer [0x82, 0x00] [0, 0], .delay 500] = true
      ∧ ends (up [yes []]) .erase .ok [.xfer [0x42, 0x00] [0, 0], .delay 500] = true
      ∧ ends (up [yes []]) .globalErase .ok [.xfer [0xC2, 0x00] [0, 0], .delay 500] = true := by decide

/-- A table word, stored where `step` fetches, runs: the first step after reset of a gated command. -/
theorem test_fetch_after_reset : after (step (State.reset.withFetchWord 16 0x0040))
    (fun t => decide (t.result = .notInitialized ∧ t.trace = [] ∧ t.inputs = [])) = true := by decide

/-- Hand calculation from R211 to R213: the wire images 0x62, 0xE2 and 0x52, and nothing after them. -/
theorem test_opcode_only :
    ends (up [yes []]) .writeNvConfig .ok [.xfer [0x62, 0x00] [0, 0]] = true
      ∧ ends (up [yes []]) .loadNvConfig .ok [.xfer [0xE2, 0x00] [0, 0]] = true
      ∧ ends (up [yes []]) .toggleExtClock .ok [.xfer [0x52, 0x00] [0, 0]] = true := by decide

/-- R200 with other entries: STOP settles, PLAY does nothing more, LOAD_NV_CONFIG polls bit 7, a setter settles
after its second frame, a pointer read's data is its own frame's. -/
theorem test_other_postchecks :
    ends (upOther [yes []]) .stop .ok [.xfer [0x40, 0x00] [0, 0], .delay 5] = true
      ∧ ends (upOther [yes []]) .play .ok [.xfer [0x02, 0x00] [0, 0]] = true
      ∧ ends (upOther [yes [], yes [0, 0, 0x80]]) .loadNvConfig .timeout
          [.xfer [0xE2, 0x00] [0, 0], .delay 5, .xfer [0xA0, 0, 0] [0, 0, 0x01], .delay 10] = true
      ∧ ends (upOther [yes [0, 0, 0x40, 0x04], yes []]) (.setVolume 3) .ok
          [.xfer [0x22, 0x00, 0x00, 0x00] [0x00, 0x00, 0x02, 0x20], .xfer [0xA6, 0xC2, 0x20] [0, 0, 0],
            .delay 7] = true
      ∧ gives (upOther [yes [0, 0, 0x34, 0x12], yes [4, 0, 0]]) .readPlayPointer 0x234
          [.xfer [0x60, 0x00, 0x00, 0x00] [0x00, 0x00, 0x2C, 0x48], .xfer [0xA0, 0, 0] [0x20, 0, 0]] = true := by
  decide

/-- R31, R144 with `TW` of 10: the operand 1024 + 19 is seen as 19, and loads the counter with 1. -/
theorem test_times_have_tw_bits :
    ends (upOther [yes [4, 0, 2]]) (.pollWait 0x02 1043 1024) .timeout
      [.xfer [0xA0, 0x00, 0x00] [0x20, 0x00, 0x40], .delay 10] = true
      ∧ ((upOther []).setTimeoutCnt 1025).timeoutCnt = 1 := by decide

/-- R5, D3: at the least `L_RNG` the range frame is the opcode and the four payload bytes. -/
theorem test_shortest_range_frame :
    encodeWith { testParams with lRng := 5 } (.setErase 0x234 0x78F) = [0x82, 0x34, 0x02, 0x8F, 0x07]
      ∧ encodeWith { testParams with lRng := 6 } (.setErase 0x234 0x78F) = [0x82, 0, 0x34, 0x02, 0x8F, 0x07] := by
  decide

/-- R5's constraints: a frame of four bytes for a range, times of nine bits or too wide for theirs, two equal
result codes. -/
theorem test_instances_out_of_range :
    { testParams with lRng := 4 }.valid = false ∧ { testParams with tw := 9 }.valid = false
      ∧ { testParams with postCheck := { otherChecks with stop := .settle 1024 }, tw := 10 }.valid = false
      ∧ { testParams with errCode := testParams.errCode.set 8 0 }.valid = false := by decide

/-- V15. -/
theorem test_priority :
    ends (down []) (.setPlayRange 0x050 0x010) .notInitialized [] = true
      ∧ ends (down []) (.setVolume 8) .notInitialized [] = true
      ∧ ends (down []) .deinit .notInitialized [] = true
      ∧ ends (down []) .getType .ok [] = true ∧ ends (down []) .clrIntDone .ok [] = true
      ∧ ends { down [] with bindingsOk := false } .init .missingBinding [] = true := by decide

/-- R9: the straps alone change. R310, R311: an engine reset clears the handle and keeps the straps. -/
theorem test_outside_events :
    after (step { up [] with inputs := [.straps false true] }) (fun t => decide
        (t.bindingsOk = false ∧ t.eventCbPresent = true ∧ t.initialized = true ∧ t.chipVariant = 3)) = true
      ∧ after (step { up [] with bindingsOk := false, inputs := [.engineReset] }) (fun t => decide
        (t.bindingsOk = false ∧ t.initialized = false ∧ t.chipVariant = 0 ∧ t.endAddress = 0)) = true := by
  decide

/-! ## Witnesses: for every statement with hypotheses, states and operands that meet them, clause by clause -/

/-- An engine ready for a gated operation, whose calls to come are answered by `answers`. -/
theorem up_ready (answers : List Answer) : (up answers).ready :=
  ⟨rfl, rfl, show testParams.valid = true by decide, rfl⟩

/-- The same with the post-check table that R200 prints. -/
theorem up_asPrinted (answers : List Answer) : (up answers).asPrinted := ⟨up_ready answers, rfl⟩

/-- The parameters at the lower and at the upper end of the lengths of R5. -/
def shortest : Params := { testParams with lCmd := 1, lRd3 := 3, lRd4 := 4, lRng := 5, tw := 10 }
def longest : Params := { testParams with lCmd := 7, lRd3 := 7, lRd4 := 7, lRng := 7 }

theorem witness_OpcodeCatalogueIsExact :
    (Instr.extclk, (0x4A : Byte), (0x52 : Byte)) ∈ [(Instr.pu, 0x01, 0x80), (.extclk, 0x4A, 0x52)] := by
  decide

theorem witness_BitReversalMirrorsEachBit : 0 < 8 ∧ 7 < 8 := by decide

theorem witness_BitReversalIsAnInvolution : bitrev8 0x05 = bitrev8 0x05 := rfl

theorem witness_DecodeOfEncodeIsTheInstruction :
    Instr.pu.wellFormed = true ∧ (Instr.setRec 0x000 0x7FF).wellFormed = true := by decide

theorem witness_DecodedBytesAreTheEncoding :
    decode [0x45, 0xFF, 0x0F] = .ok (.wrApcBtn 0xFFF)
      ∧ decode [0x82, 0, 0xFF, 0x07, 0xFF, 0x07, 0] = .ok (.setErase 0x7FF 0x7FF) := by decide

theorem witness_OtherOpcodesAreNotCommands :
    ∀ op ∈ ([0x00, 0x0A, 0x3F, 0x4B, 0x64, 0x66, 0x7F, 0x83, 0xFF] : List Byte),
      op ∉ ([0x01, 0x02, 0x03, 0x04, 0x05, 0x06, 0x07, 0x08, 0x09, 0x40, 0x41, 0x42, 0x43, 0x44, 0x45,
        0x65, 0x46, 0x47, 0x48, 0x49, 0x4A, 0x80, 0x81, 0x82] : List Byte) := by decide

theorem witness_FrameLayoutsFollowTheirFormat :
    testParams.valid = true ∧ shortest.valid = true ∧ longest.valid = true := by decide

theorem witness_StepRunsTheDecodedInstruction :
    (up [yes []]).seq = .idle
      ∧ { up [yes []] with inputs := [.frame [0x40, 0]] }.inputs = Input.frame [0x40, 0] :: []
      ∧ decode [0x40, 0] = .ok .play := by decide

theorem witness_StepRunsTheRequestedOperation :
    (up []).seq = .idle ∧ { up [] with inputs := [.op .getType] }.inputs = Input.op .getType :: []
      ∧ { up [] with inputs := [.straps false true] }.inputs = Input.straps false true :: [] := by
  decide

theorem witness_UnknownSelectorChangesNothing :
    (up []).seq = .idle ∧ { up [] with inputs := [.frame [0x0A, 0]] }.inputs = Input.frame [0x0A, 0] :: []
      ∧ decode [0x0A, 0] = .error (.notACommand 0x0A) := by decide

theorem witness_ResetValuesAreTheTable : State.reset.inputs = [] ∧ (up []).engineReset.inputs = []
    ∧ (up []).seq = .idle ∧ { up [] with inputs := [.engineReset] }.inputs = Input.engineReset :: [] := by
  decide

theorem witness_RequestsWithoutAMeaningAreRefused :
    ((up []).setSeq .polling).seq ≠ .idle ∧ (up []).seq = .idle ∧ (up []).initialized = true := by decide

theorem witness_ExchangeFollowsItsPseudocode :
    (up [yes []]).hang = none ∧ ((up [yes []]).answerAt 0).ok = true ∧ ((up [no]).answerAt 0).ok = false
      ∧ 1 ≤ [(0x01 : Byte)].length ∧ [(0x80 : Byte), 0, 0, 0, 1, 0, 0].length ≤ 7 := by decide

theorem witness_DelayAddsOneEventUnlessZero : (up []).hang = none := by decide

theorem witness_HungPortIsStuck :
    ((up []).setHang (some 0)).seq = .idle ∧ ((up []).setHang (some 0)).initialized = true
      ∧ ((up []).setHang (some 0)).hang = some 0 ∧ rangeLegal 0x1EE 0x1EF (up []).endAddress = true := by
  decide

theorem witness_ExecuteCommandsIssueAndSettle :
    (up [yes []]).asPrinted ∧ ((up [yes []]).answerAt 0).ok = true
      ∧ (up [no]).asPrinted ∧ ((up [no]).answerAt 0).ok = false
      ∧ (down []).seq = .idle ∧ (down []).initialized = false := by decide

/-- The printed table; PLAY with nothing to follow; STOP with a delay. -/
theorem witness_OpcodeOnlyCommandsSendOneFrame :
    (up [yes []]).asPrinted ∧ ((up [yes []]).answerAt 0).ok = true 
      ∧ (upOther [yes []]).ready ∧ (upOther [yes []]).accepts .play ∧ ((upOther [yes []]).answerAt 0).ok = true
      ∧ postCheckOf (upOther []).params .play = .nothing
      ∧ postCheckOf (upOther []).params .stop = .settle 5 := by
  refine ⟨by decide, by decide, by decide, fun a b h => ?_, by decide, by decide, by decide⟩
  exact absurd h (by simp)

theorem witness_ChipResetSettlesWithoutPolling :
    (up [yes []]).asPrinted ∧ ((up [yes []]).answerAt 0).ok = true
      ∧ (up [no]).asPrinted ∧ ((up [no]).answerAt 0).ok = false
      ∧ (down []).seq = .idle ∧ (down []).initialized = false := by decide

/-- No error and no interrupt; an error and both interrupts; a range setter with an error check; a failed status
frame; a failed clear-interrupt frame. -/
theorem witness_CheckedCommandsReadStatusOnce :
    ((up [yes [], yes [4, 0, 0]]).asPrinted ∧ (up [yes [], yes [4, 0, 0]]).portsOk 2
      ∧ (up [yes [], yes [4, 0, 0]]).irqAt 1 = false ∧ (up [yes [], yes [4, 0, 0]]).cmdErrAt 1 = false)
    ∧ (up [yes [], yes [0x19, 0, 0], yes []]).portsOk 2
      ∧ (up [yes [], yes [0x19, 0, 0], yes []]).irqAt 1 = true
      ∧ ((up [yes [], yes [0x19, 0, 0], yes []]).answerAt 2).ok = true
      ∧ (up [yes [], yes [0x19, 0, 0], yes []]).cmdErrAt 1 = true 
      ∧ postCheckOf (upOther []).params (.setErase 0x000 0x1EF) = .errorCheck 30
      ∧ (upOther [yes [], yes [4, 0, 0]]).ready ∧ rangeLegal 0x000 0x1EF (upOther []).endAddress = true
      ∧ (upOther [yes [], yes [4, 0, 0]]).portsOk 2
      ∧ (upOther [yes [], yes [4, 0, 0]]).irqAt 1 = false
      ∧ ((upOther [yes [], no]).answerAt 0).ok = true ∧ (upOther [yes [], no]).readFails 1
      ∧ ((upOther [yes [], yes [8, 0, 0], no]).answerAt 0).ok = true
      ∧ (upOther [yes [], yes [8, 0, 0], no]).readFails 1 := by decide

/-- `s` with `m` answers that show the ready bit and nothing else, then `last`. -/
def stalled (s : State) (m : Nat) (last : List Answer) : State :=
  { s with answers := List.replicate m (yes [4, 0, 1]) ++ last }

theorem stalled_answerAt (s : State) {m j : Nat} (last : List Answer) (h : j < m) :
    (stalled s m last).answerAt j = (up [yes [4, 0, 1]]).answerAt 0 := by
  simp [stalled, up, down, State.answerAt, List.getElem?_append, h]

/-- What follows the `m` answers. -/
theorem stalled_last (s : State) (m j : Nat) (last : List Answer) :
    (stalled s m last).answerAt (m + j) = { s with answers := last }.answerAt j := by
  simp [stalled, State.answerAt, List.getElem?_append, Nat.add_sub_add_left]

theorem stalled_sampleAt {s : State} (hs : s.params = testParams) {m n k : Nat} (last : List Answer)
    (h : n + k ≤ m) : (stalled s m last).sampleAt n k = n + k := by
  induction k with
  | zero => rfl
  | succ k ih =>
    have hi : (stalled s m last).irqAt (n + k) = (up [yes [4, 0, 1]]).irqAt 0 := by
      simp only [State.irqAt, State.status1At, State.rxAt, stalled_answerAt s last (show n + k < m by omega)]
      rw [show (stalled s m last).params = testParams from hs]; rfl
    rw [State.sampleAt, ih (by omega), hi, if_neg (by decide)]; omega

theorem stalled_expires {s : State} (hs : s.params = testParams) {m n k : Nat} (last : List Answer)
    (h : n + k ≤ m) : (stalled s m last).waitExpires n k (s2Mask testParams .rdy) := by
  refine ⟨fun j hj => ?_, fun j hj => ?_⟩
  · rw [stalled_sampleAt hs last h] at hj
    rw [stalled_answerAt s last (by omega)]; decide
  · rw [stalled_sampleAt hs last (show n + j ≤ m by omega)]
    simp only [State.cmdErrAt, State.status1At, State.status2At, State.rxAt,
      stalled_answerAt s last (show n + j < m by omega)]
    exact show (up [yes [4, 0, 1]]).cmdErrAt 0 = false
      ∧ (up [yes [4, 0, 1]]).status2At 0 &&& s2Mask testParams .rdy ≠ 0 by decide

/-- A sample with the error bit after `k` that keep the wait going. -/
theorem stalled_ends {s : State} (hs : s.params = testParams) (n k : Nat) (last : List Answer) :
    (stalled s (n + k) (yes [5, 0, 1] :: last)).waitEnds n k (s2Mask testParams .rdy)
      ∧ (stalled s (n + k) (yes [5, 0, 1] :: last)).cmdErrAt
          ((stalled s (n + k) (yes [5, 0, 1] :: last)).sampleAt n k) = true := by
  have ha : (stalled s (n + k) (yes [5, 0, 1] :: last)).answerAt (n + k) = (up [yes [5, 0, 1]]).answerAt 0 :=
    stalled_last s (n + k) 0 _
  have hk := stalled_sampleAt hs (yes [5, 0, 1] :: last) (Nat.le_refl (n + k))
  have hc : (stalled s (n + k) (yes [5, 0, 1] :: last)).cmdErrAt (n + k) = true := by
    simp only [State.cmdErrAt, State.status1At, State.rxAt, ha]
    exact show (up [yes [5, 0, 1]]).cmdErrAt 0 = true by decide
  have hi : (stalled s (n + k) (yes [5, 0, 1] :: last)).irqAt (n + k) = (up [yes [5, 0, 1]]).irqAt 0 := by
    simp only [State.irqAt, State.status1At, State.rxAt, ha]
    rw [show (stalled s (n + k) (yes [5, 0, 1] :: last)).params = testParams from hs]; rfl
  obtain ⟨ho, hw⟩ := stalled_expires hs (yes [5, 0, 1] :: last) (Nat.le_refl (n + k))
  refine ⟨⟨fun j hj => ?_, hw, .inl (by rw [hk]; exact hc)⟩, by rw [hk]; exact hc⟩
  rw [State.sampleAt, hk, hi, if_neg (by decide)] at hj
  rcases Nat.lt_succ_iff_lt_or_eq.mp hj with h | rfl
  · exact ho j (by rw [hk]; exact h)
  · rw [ha]; decide

/-- A sample whose status frame fails after `k` that keep the wait going. -/
theorem stalled_breaks {s : State} (hs : s.params = testParams) (n k : Nat) (last : List Answer) :
    (stalled s (n + k) (no :: last)).waitBreaks n k (s2Mask testParams .rdy) := by
  obtain ⟨ho, hw⟩ := stalled_expires hs (no :: last) (Nat.le_refl (n + k))
  refine ⟨ho, hw, .inl ?_⟩
  rw [stalled_sampleAt hs _ (Nat.le_refl (n + k))]
  exact (congrArg Answer.ok (stalled_last s (n + k) 0 (no :: last))).trans (by simp [State.answerAt, no])

/-- POWER_UP: the first sample, with an interrupt; the second, after one with an interrupt; the last sample, with the
error bit; a read that fails at the first and at the last sample; no sample ends the wait. Any table: a sample that
ends it; a failed status and a failed clear-interrupt frame; one sample at 10 ms and none at 9 ms. -/
theorem witness_PowerUpEndsOnAClearReadyBit :
    ((up [yes [], yes [8, 0, 0xF0], yes []]).asPrinted
      ∧ (up [yes [], yes [8, 0, 0xF0], yes []]).waitEnds 1 0 (s2Mask testParams .rdy)
      ∧ (up [yes [], yes [0x0C, 0, 1], yes [], yes [4, 0, 0]]).waitEnds 1 1 (s2Mask testParams .rdy)
      ∧ (up [yes [], yes [8, 0, 1], no]).waitBreaks 1 0 (s2Mask testParams .rdy))
    ∧ ((stalled (up []) 100 [yes [5, 0, 1]]).asPrinted ∧ 99 < 100
      ∧ (stalled (up []) 100 [yes [5, 0, 1]]).waitEnds 1 99 (s2Mask testParams .rdy)
      ∧ (stalled (up []) 100 [no]).waitBreaks 1 99 (s2Mask testParams .rdy)
      ∧ (stalled (up []) 101 []).waitExpires 1 100 (s2Mask testParams .rdy))
    ∧ postCheckOf (upOther []).params .ldNvcfg = .poll (.bits 0x80) 10 5
      ∧ (upOther [yes [], yes [4, 0, 0x7F]]).ready
      ∧ (upOther [yes [], yes [4, 0, 0x7F]]).waitEnds 1 0 (pollByte testParams (.bits 0x80))
      ∧ (upOther [yes [], no]).waitBreaks 1 0 (pollByte testParams (.bits 0x80))
      ∧ (upOther [yes [], yes [8, 0, 0x80], no]).waitBreaks 1 0 (pollByte testParams (.bits 0x80))
      ∧ (upOther [yes [], yes [4, 0, 0x80]]).waitExpires 1 (10 / 10) (pollByte testParams (.bits 0x80))
      ∧ postCheckOf (upOther []).params .wrNvcfg = .poll (.bits 0x80) 9 5
      ∧ (upOther [yes []]).waitExpires 1 (9 / 10) (pollByte testParams (.bits 0x80)) :=
  ⟨by decide, ⟨⟨up_ready _, rfl⟩, by decide, (stalled_ends rfl 1 99 []).1, stalled_breaks rfl 1 99 [],
    stalled_expires rfl [] (by decide)⟩, by decide⟩

/-- The printed table; a read with an error check after it. -/
theorem witness_PointerReadsDeliverElevenBits :
    (up [yes [0, 0, 0xFF, 0xFF]]).ready ∧ ((up [yes [0, 0, 0xFF, 0xFF]]).answerAt 0).ok = true 
      ∧ testParams.postCheck = PostChecks.printed ∧ (upOther [yes [0, 0, 0xFF, 0xFF], yes [4, 0, 0]]).ready
      ∧ ((upOther [yes [0, 0, 0xFF, 0xFF], yes [4, 0, 0]]).answerAt 0).ok = true
      ∧ ∃ t, exec .rdPlayPtr (upOther [yes [0, 0, 0xFF, 0xFF], yes [4, 0, 0]]) = .next t ∧ decide (t.result = .ok) = true :=
  ⟨up_ready _, by decide, rfl, by decide, by decide,
    next_of_after (f := fun t => decide (t.result = .ok)) (by decide)⟩

/-- The printed table; a read with an error check after it. -/
theorem witness_DeviceIdIsTheUpperFiveBits :
    (up [yes [0, 0, 0xA7]]).ready ∧ ((up [yes [0, 0, 0xA7]]).answerAt 0).ok = true 
      ∧ testParams.postCheck = PostChecks.printed ∧ (upOther [yes [0, 0, 0xA7], yes [4, 0, 0]]).ready
      ∧ ((upOther [yes [0, 0, 0xA7], yes [4, 0, 0]]).answerAt 0).ok = true
      ∧ ∃ t, exec .rdDevid (upOther [yes [0, 0, 0xA7], yes [4, 0, 0]]) = .next t ∧ decide (t.result = .ok) = true :=
  ⟨up_ready _, by decide, rfl, by decide, by decide,
    next_of_after (f := fun t => decide (t.result = .ok)) (by decide)⟩

/-- The narrowest range at either end, and the widest. -/
theorem witness_RangeSettersSendALegalRange :
    (up [yes []]).asPrinted ∧ ((up [yes []]).answerAt 0).ok = true ∧ ((up [no]).answerAt 0).ok = false
      ∧ ((0x000 : Addr).toNat < (0x001 : Addr).toNat
        ∧ (0x001 : Addr).toNat ≤ (up []).endAddress.toNat)
      ∧ (0x1EE : Addr).toNat < (0x1EF : Addr).toNat ∧ (0x000 : Addr).toNat < (0x1EF : Addr).toNat
      ∧ (0x1EF : Addr).toNat ≤ (up []).endAddress.toNat
      ∧ ¬((0x000 : Addr).toNat < (0x1F0 : Addr).toNat
        ∧ (0x1F0 : Addr).toNat ≤ (up []).endAddress.toNat)
      ∧ (down []).seq = .idle ∧ (down []).initialized = false := by decide

/-- An empty range, an end one past the bound, an end that fits only after the mask; levels 8 and 255. -/
theorem witness_InvalidArgumentsSendNothing :
    (up []).seq = .idle ∧ (up []).initialized = true
      ∧ ¬((0x010 : Addr).toNat < (0x010 : Addr).toNat
        ∧ (0x010 : Addr).toNat ≤ (up []).endAddress.toNat)
      ∧ ¬((0x000 : Addr).toNat < (0x1F0 : Addr).toNat
        ∧ (0x1F0 : Addr).toNat ≤ (up []).endAddress.toNat)
      ∧ ¬((0x000 : Addr).toNat < (0x9EF : Addr).toNat
        ∧ (0x9EF : Addr).toNat ≤ (up []).endAddress.toNat)
      ∧ 7 < (8 : Byte).toNat ∧ 7 < (255 : Byte).toNat := by decide

/-- An interrupt, cleared; a failed status frame; a failed clear-interrupt frame. -/
theorem witness_GetStatusReturnsTheWordItRead :
    (up [yes [0x10, 0, 1], yes []]).ready ∧ ((up [yes [0x10, 0, 1], yes []]).answerAt 0).ok = true
      ∧ (up [yes [0x10, 0, 1], yes []]).irqAt 0 = true
      ∧ ((up [yes [0x10, 0, 1], yes []]).answerAt 1).ok = true
      ∧ (up [no]).ready ∧ (up [no]).readFails 0 ∧ (up [yes [0x10, 0, 1], no]).readFails 0 := by decide

/-- The printed table; a read with an error check after it. -/
theorem witness_ReadApcDeliversTwelveBits :
    (up [yes [0, 0, 0xFF, 0xFF]]).ready ∧ ((up [yes [0, 0, 0xFF, 0xFF]]).answerAt 0).ok = true 
      ∧ testParams.postCheck = PostChecks.printed ∧ (upOther [yes [0, 0, 0xFF, 0xFF], yes [4, 0, 0]]).ready
      ∧ ((upOther [yes [0, 0, 0xFF, 0xFF], yes [4, 0, 0]]).answerAt 0).ok = true
      ∧ ∃ t, exec .rdApc (upOther [yes [0, 0, 0xFF, 0xFF], yes [4, 0, 0]]) = .next t ∧ decide (t.result = .ok) = true :=
  ⟨up_ready _, by decide, rfl, by decide, by decide,
    next_of_after (f := fun t => decide (t.result = .ok)) (by decide)⟩

theorem witness_ApcWriteRowsSendTheWord :
    (up [yes []]).asPrinted ∧ ((up [yes []]).answerAt 0).ok = true := by decide

/-- The clear-interrupt frame succeeds; it fails. -/
theorem witness_StatusReadClearsWhatItSees :
    ((up [yes [8, 0, 0], yes []]).hang = none ∧ testParams.valid = true
      ∧ ((up [yes [8, 0, 0], yes []]).answerAt 0).ok = true ∧ (up [yes [8, 0, 0], yes []]).irqAt 0 = true
      ∧ ((up [yes [8, 0, 0], yes []]).answerAt 1).ok = true)
    ∧ (up [yes [8, 0, 0], no]).irqAt 0 = true ∧ ((up [yes [8, 0, 0], no]).answerAt 0).ok = true
      ∧ ((up [yes [8, 0, 0], no]).answerAt 1).ok = false
      ∧ (up [no]).hang = none ∧ ((up [no]).answerAt 0).ok = false := by decide

/-- The last clause; the masks' bit indices are free. -/
theorem witness_StatusFlagsAreBitsOfTheLatches :
    { State.reset with rxbuf := buffer [0x19, 0x00, 0x05] }.params = Params.default
      ∧ { State.reset with rxbuf := buffer [0x19, 0x00, 0x05] }.rxbuf[0] = 0x19
      ∧ { State.reset with rxbuf := buffer [0x19, 0x00, 0x05] }.rxbuf[1] = 0x00
      ∧ { State.reset with rxbuf := buffer [0x19, 0x00, 0x05] }.rxbuf[2] = 0x05 :=
  ⟨rfl, rfl, rfl, rfl⟩

/-- The least and the greatest timeout of ten bits. -/
theorem witness_TimeoutCounterLoad :
    0 < 2 ^ (upOther []).params.tw ∧ 1023 < 2 ^ (upOther []).params.tw
      ∧ ((upOther []).setTimeoutCnt (timeoutLoad 1023)).timeoutCnt = 102 := by decide

/-- The first sample ends the wait, at the shortest timeout, with an interrupt; the second does, at the shortest
timeout that has two. A failed status frame; a failed clear-interrupt frame in the second sample. -/
theorem witness_PollWaitEndsOnTheFirstClearSample :
    ((up [yes [8, 0, 0], yes []]).ready ∧ 0 < testParams.ms 10 / 10
      ∧ (up [yes [8, 0, 0], yes []]).waitEnds 0 0 0x04
      ∧ (up [yes [8, 0, 0], yes []]).cmdErrAt ((up [yes [8, 0, 0], yes []]).sampleAt 0 0) = false)
    ∧ (1 < testParams.ms 20 / 10 ∧ (up [yes [4, 0, 5], yes [4, 0, 1]]).waitEnds 0 1 0x04
      ∧ (up [yes [4, 0, 5], yes [4, 0, 1]]).cmdErrAt ((up [yes [4, 0, 5], yes [4, 0, 1]]).sampleAt 0 1) = false)
    ∧ (up [no]).waitBreaks 0 0 0x04 ∧ (up [yes [4, 0, 5], yes [8, 0, 0], no]).waitBreaks 0 1 0x04 := by decide

/-- No sample at 9 ms, one at 19 ms. -/
theorem witness_PollWaitTimesOutAfterItsSamples :
    (up []).ready ∧ (up []).waitExpires 0 (testParams.ms 9 / 10) 0x02
      ∧ (up [yes [4, 0, 2]]).ready ∧ (up [yes [4, 0, 2]]).waitExpires 0 (testParams.ms 19 / 10) 0x02 := by decide

/-- The first sample, with an interrupt; the second. -/
theorem witness_PollAbortsOnACommandError :
    ((up [yes [0x11, 0, 2], yes []]).ready ∧ 0 < testParams.ms 10 / 10
      ∧ (up [yes [0x11, 0, 2], yes []]).waitEnds 0 0 0x02
      ∧ (up [yes [0x11, 0, 2], yes []]).cmdErrAt ((up [yes [0x11, 0, 2], yes []]).sampleAt 0 0) = true)
    ∧ 1 < testParams.ms 20 / 10 ∧ (up [yes [4, 0, 2], yes [1, 0, 0]]).waitEnds 0 1 0x02
      ∧ (up [yes [4, 0, 2], yes [1, 0, 0]]).cmdErrAt ((up [yes [4, 0, 2], yes [1, 0, 0]]).sampleAt 0 1) = true := by
  decide

/-- A wait that times out. -/
theorem witness_PollingIsBoundedByItsTimeout :
    testParams.valid = true ∧ ∃ t, execHost (.pollWait 0x02 19 0) (up [yes [4, 0, 2]]) = .next t
      ∧ decide (t.result = .timeout) = true :=
  ⟨by decide, next_of_after (f := fun t => decide (t.result = .timeout)) (by decide)⟩

theorem witness_FieldInsertAndExtractAgree :
    testParams.valid = true ∧ (7 : Word12).toNat < 2 ^ ApcField.volume.width
      ∧ (1 : Word12).toNat < 2 ^ ApcField.eomStop.width ∧ ApcField.eomStop ≠ .volume := by decide

theorem witness_WriteApcUsesTheHandlesOpcode :
    (up [yes []]).asPrinted ∧ ((up [yes []]).answerAt 0).ok = true
      ∧ (up [no]).ready ∧ ((up [no]).answerAt 0).ok = false := by decide

/-- Both frames succeed; the read fails; the write fails. -/
theorem witness_FieldSettersReadModifyWrite :
    ((up [yes [0, 0, 0x40, 0x04], yes []]).asPrinted ∧ (up [yes [0, 0, 0x40, 0x04], yes []]).portsOk 2
      ∧ (7 : Word12).toNat < 2 ^ ApcField.volume.width
      ∧ (1 : Word12).toNat < 2 ^ ApcField.voltageAlert.width)
    ∧ ((up [no]).ready ∧ ((up [no]).answerAt 0).ok = false)
    ∧ (up [yes [0, 0, 0x40, 0x04], no]).ready ∧ ((up [yes [0, 0, 0x40, 0x04], no]).answerAt 0).ok = true
      ∧ ((up [yes [0, 0, 0x40, 0x04], no]).answerAt 1).ok = false := by decide

theorem witness_FieldGettersReadOnce :
    (up [yes [0, 0, 0x40, 0x04]]).asPrinted ∧ ((up [yes [0, 0, 0x40, 0x04]]).answerAt 0).ok = true
      ∧ (up [no]).ready ∧ ((up [no]).answerAt 0).ok = false := by decide

/-- The chip reads 0x440, then 0x443, the word that SET_VOLUME 3 wrote. -/
def setGet : State := up [yes [0, 0, 0x40, 0x04], yes [], yes [0, 0, 0x43, 0x04]]

theorem witness_SetThenGetReturnsTheValue :
    setGet.asPrinted ∧ setGet.portsOk 3 ∧ (3 : Word12).toNat < 2 ^ ApcField.volume.width
      ∧ setGet.apcAt 2 = apcInsert setGet.params .volume 3 (setGet.apcAt 0)
      ∧ ∃ t, execHost (setterOf .volume 3) setGet = .next t
          ∧ decide (t.answerAt 0 = setGet.answerAt 2) = true :=
  ⟨by decide, by decide, by decide, by decide,
    next_of_after (f := fun t => decide (t.answerAt 0 = setGet.answerAt 2)) (by decide)⟩

/-- Both frames succeed; the first fails; the second does. -/
theorem witness_VolumeControlLatchesAfterItsWrite :
    (up [yes [], yes []]).asPrinted ∧ (up [yes [], yes []]).portsOk 2
      ∧ (up [no]).ready ∧ ((up [no]).answerAt 0).ok = false
      ∧ (up [yes [], no]).ready ∧ ((up [yes [], no]).answerAt 0).ok = true
      ∧ ((up [yes [], no]).answerAt 1).ok = false
      ∧ (down []).seq = .idle ∧ (down []).initialized = false := by decide

theorem witness_GetVolumeControlExchangesNothing :
    (up []).seq = .idle ∧ (up []).initialized = true ∧ (up []).volSrc = .register
      ∧ ((up []).setVolSrc .button).volSrc = .button := by decide

theorem witness_TypeAccessorsAreNotGated : (down []).seq = .idle := by decide

theorem witness_InterruptDoneAccessors :
    (down []).seq = .idle ∧ ((down []).setInterruptDone true).seq = .idle := by decide

/-- Answers of an INIT whose status read shows an interrupt. -/
def initIrq : List Answer :=
  [yes [], yes [], yes [], yes [], yes [], yes [0x08, 0x00, 0x00], yes [], yes [0x04, 0x00, 0xA0], yes []]

/-- The last sample of step 5 that the timeout allows ends its wait; then the device-id and the reset frame. -/
def initLate : State := stalled (down []) 104 [yes [4, 0, 0], yes [4, 0, 0xA0], yes []]

theorem initLate_sampleAt : initLate.sampleAt 5 99 = 104 ∧ initLate.sampleAt 5 100 = 105 := by
  have h := stalled_sampleAt (s := down []) rfl [yes [4, 0, 0], yes [4, 0, 0xA0], yes []] (show 5 + 99 ≤ 104 by decide)
  have ha : initLate.answerAt 104 = (up [yes [4, 0, 0]]).answerAt 0 := stalled_last (down []) 104 0 _
  have hi : initLate.irqAt 104 = (up [yes [4, 0, 0]]).irqAt 0 := by
    simp only [State.irqAt, State.status1At, State.rxAt, ha]; rfl
  refine ⟨h, ?_⟩
  rw [State.sampleAt, show initLate.sampleAt 5 99 = 104 from h, hi, if_neg (by decide)]

theorem initLate_meets :
    initLate.canInit ∧ initLate.portsOk 107 ∧ initLate.waitEnds 5 99 (s2Mask testParams .rdy)
      ∧ initLate.cmdErrAt (initLate.sampleAt 5 99) = false
      ∧ initLate.rxAt 105 2 >>> 3 = deviceIdOf testParams .isd1760 := by
  have hl : ∀ j, initLate.answerAt (104 + j) = (up [yes [4, 0, 0], yes [4, 0, 0xA0], yes []]).answerAt j :=
    fun j => stalled_last (down []) 104 j _
  have ho : initLate.portsOk 107 := by
    intro j hj
    by_cases h : j < 104
    · show ((stalled (down []) 104 _).answerAt j).ok = true
      rw [stalled_answerAt (down []) _ h]; decide
    · obtain ⟨i, rfl⟩ : ∃ i, j = 104 + i := ⟨j - 104, by omega⟩
      rw [hl]
      obtain rfl | rfl | rfl : i = 0 ∨ i = 1 ∨ i = 2 := by omega
      all_goals decide
  refine ⟨by decide, ho, ⟨fun j hj => ?_, (stalled_expires rfl _ (by decide)).2, .inr ?_⟩, ?_, ?_⟩
  · rw [initLate_sampleAt.2] at hj; exact ho j (by omega)
  · simp only [initLate_sampleAt.1, State.status2At, State.rxAt, hl 0]
    exact show (up [yes [4, 0, 0], yes [4, 0, 0xA0], yes []]).status2At 0 &&& s2Mask testParams .rdy = 0 by decide
  · simp only [initLate_sampleAt.1, State.cmdErrAt, State.status1At, State.rxAt, hl 0]
    exact show (up [yes [4, 0, 0], yes [4, 0, 0xA0], yes []]).cmdErrAt 0 = false by decide
  · simp only [State.rxAt, hl 1]
    exact show (up [yes [4, 0, 0], yes [4, 0, 0xA0], yes []]).rxAt 1 2 >>> 3 = deviceIdOf testParams .isd1760 by decide

/-- The first sample of step 5 ends its wait, without an interrupt and with one; the second does (P1); the last. -/
theorem witness_InitBringsTheEngineToReady :
    ((down (p8 0xA0 [yes []])).canInit ∧ (down (p8 0xA0 [yes []])).chipVariant = Variant.isd1760.code
      ∧ (down (p8 0xA0 [yes []])).sampleAt 5 1 = 6 ∧ (down (p8 0xA0 [yes []])).portsOk (6 + 2)
      ∧ (down (p8 0xA0 [yes []])).waitEnds 5 0 (s2Mask testParams .rdy)
      ∧ (down (p8 0xA0 [yes []])).cmdErrAt ((down (p8 0xA0 [yes []])).sampleAt 5 0) = false
      ∧ (down (p8 0xA0 [yes []])).rxAt 6 2 >>> 3 = deviceIdOf testParams .isd1760)
    ∧ ((down initIrq).sampleAt 5 1 = 7 ∧ (down initIrq).portsOk (7 + 2)
      ∧ (down initIrq).waitEnds 5 0 (s2Mask testParams .rdy)
      ∧ (down initIrq).cmdErrAt ((down initIrq).sampleAt 5 0) = false
      ∧ (down initIrq).rxAt 7 2 >>> 3 = deviceIdOf testParams .isd1760)
    ∧ (p1.canInit ∧ p1.sampleAt 5 2 = 7 ∧ p1.portsOk (7 + 2) ∧ p1.waitEnds 5 1 (s2Mask testParams .rdy)
      ∧ p1.cmdErrAt (p1.sampleAt 5 1) = false ∧ p1.rxAt 7 2 >>> 3 = deviceIdOf testParams .isd1760)
    ∧ initLate.canInit ∧ 105 = initLate.sampleAt 5 100 ∧ initLate.portsOk (105 + 2)
      ∧ initLate.waitEnds 5 99 (s2Mask testParams .rdy) ∧ initLate.cmdErrAt (initLate.sampleAt 5 99) = false
      ∧ initLate.rxAt 105 2 >>> 3 = deviceIdOf testParams .isd1760 :=
  ⟨by decide, by decide, by decide, initLate_meets.1, initLate_sampleAt.2.symm, initLate_meets.2.1,
    initLate_meets.2.2.1, initLate_meets.2.2.2.1, initLate_meets.2.2.2.2⟩

theorem witness_InitOkMeansTheHandshakePassed :
    testParams.valid = true ∧ testParams.postCheck = PostChecks.printed ∧ ∃ t, execHost .init p1 = .next t ∧ decide (t.result = .ok) = true :=
  ⟨by decide, rfl, next_of_after (f := fun t => decide (t.result = .ok)) (by decide)⟩

/-- The wire bytes of the chip's reset frame at the test instantiation. -/
def resetWire : List Byte := (cmdFrame testParams 0x03).map bitrev8

/-- The calls of steps 2 to 4 and the power-up frame, all answered. -/
def opened (l : List Answer) : State := down ([yes [], yes [], yes [], yes [], yes []] ++ l)

/-- An INIT that fails after it has opened both ports, before step 9; one that fails in step 9. Then a failure in each
step: PHY, GPIO, both levels of the reset pulse, the power-up frame; in step 5 a failed status frame and a failed
clear-interrupt frame, at the first sample and at the last, no sample, a command error at the first and at the last
sample; the device-id frame; the reset frame. -/
theorem witness_FailedInitReleasesItsPorts :
    (testParams.valid = true
    ∧ (∃ t, execHost .init (down [yes [], yes [], no, yes [], no]) = .next t
      ∧ decide (t.result ≠ .ok ∧ ∀ e ∈ t.trace, e.sent ≠ some resetWire) = true)
    ∧ ∃ t, execHost .init (down (p8 0xA0 [no, yes [], yes []])) = .next t
      ∧ decide (t.result ≠ .ok ∧ ∃ e ∈ t.trace, e.sent = some resetWire) = true)
    ∧ ((down [no]).canInit ∧ ((down [no]).answerAt 0).ok = false
      ∧ (down [yes [], no]).portsOk 1 ∧ ((down [yes [], no]).answerAt 1).ok = false
      ∧ (down [yes [], yes [], no]).portsOk 2 ∧ ((down [yes [], yes [], no]).answerAt 2).ok = false
      ∧ (down [yes [], yes [], yes [], no]).portsOk 3
      ∧ ((down [yes [], yes [], yes [], no]).answerAt 3).ok = false
      ∧ (down [yes [], yes [], yes [], yes [], no]).portsOk 4
      ∧ ((down [yes [], yes [], yes [], yes [], no]).answerAt 4).ok = false)
    ∧ ((opened [no]).canInit ∧ (opened [no]).waitBreaks 5 0 (s2Mask testParams .rdy)
      ∧ (opened [yes [8, 0, 1], no]).waitBreaks 5 0 (s2Mask testParams .rdy)
      ∧ (opened [yes [5, 0, 1]]).waitEnds 5 0 (s2Mask testParams .rdy)
      ∧ (opened [yes [5, 0, 1]]).cmdErrAt ((opened [yes [5, 0, 1]]).sampleAt 5 0) = true
      ∧ (opened [yes [4, 0, 0], no]).sampleAt 5 1 = 6 ∧ ((opened [yes [4, 0, 0], no]).answerAt 6).ok = false)
    ∧ ((opened [yes [4, 0, 0], no]).waitEnds 5 0 (s2Mask testParams .rdy)
      ∧ (opened [yes [4, 0, 0], no]).cmdErrAt ((opened [yes [4, 0, 0], no]).sampleAt 5 0) = false
      ∧ (down (p8 0xA0 [no])).chipVariant = Variant.isd1760.code
      ∧ (down (p8 0xA0 [no])).waitEnds 5 0 (s2Mask testParams .rdy))
    ∧ ((down (p8 0xA0 [no])).cmdErrAt ((down (p8 0xA0 [no])).sampleAt 5 0) = false
      ∧ (down (p8 0xA0 [no])).sampleAt 5 1 = 6 ∧ ((down (p8 0xA0 [no])).answerAt 6).ok = true
      ∧ (down (p8 0xA0 [no])).rxAt 6 2 >>> 3 = deviceIdOf testParams .isd1760
      ∧ ((down (p8 0xA0 [no])).answerAt (6 + 1)).ok = false)
    ∧ (stalled (down []) 104 [no]).waitBreaks 5 99 (s2Mask testParams .rdy)
      ∧ (stalled (down []) 105 []).waitExpires 5 100 (s2Mask testParams .rdy)
      ∧ (stalled (down []) 104 [yes [5, 0, 1]]).waitEnds 5 99 (s2Mask testParams .rdy) :=
  ⟨⟨by decide,
    next_of_after (f := fun t => decide (t.result ≠ .ok ∧ ∀ e ∈ t.trace, e.sent ≠ some resetWire)) (by decide),
    next_of_after (f := fun t => decide (t.result ≠ .ok ∧ ∃ e ∈ t.trace, e.sent = some resetWire)) (by decide)⟩,
    by decide, by decide, by decide, by decide, stalled_breaks rfl 5 99 [], stalled_expires rfl [] (by decide),
    (stalled_ends rfl 5 99 []).1⟩

theorem witness_MissingBindingStopsInitAtOnce :
    { down [] with bindingsOk := false }.seq = .idle
      ∧ { down [] with bindingsOk := false }.initialized = false
      ∧ { down [] with bindingsOk := false }.bindingsOk = false := by decide

/-- A wrong id for the highest variant code; the lowest code that is no variant, with any id. -/
theorem witness_InitRejectsTheWrongChip :
    (((down (p8 0xA8 [])).setChipVariant 9).canInit ∧ ((down (p8 0xA8 [])).setChipVariant 9).sampleAt 5 1 = 6
      ∧ ((down (p8 0xA8 [])).setChipVariant 9).portsOk (6 + 1)
      ∧ ((down (p8 0xA8 [])).setChipVariant 9).waitEnds 5 0 (s2Mask testParams .rdy)
      ∧ ((down (p8 0xA8 [])).setChipVariant 9).cmdErrAt (((down (p8 0xA8 [])).setChipVariant 9).sampleAt 5 0)
        = false)
    ∧ (∀ v : Variant, ((down (p8 0xA8 [])).setChipVariant 9).chipVariant = v.code →
        ((down (p8 0xA8 [])).setChipVariant 9).rxAt 6 2 >>> 3 ≠ deviceIdOf testParams v)
    ∧ ∀ v : Variant, ((down (p8 0xA0 [])).setChipVariant 10).chipVariant = v.code →
        ((down (p8 0xA0 [])).setChipVariant 10).rxAt 6 2 >>> 3 ≠ deviceIdOf testParams v := by
  refine ⟨by decide, ?_, ?_⟩ <;> intro v <;> cases v <;> decide

/-- Both closes succeed, with an interrupt in the status read; the GPIO close fails; the PHY close fails; the
power-down, the status and the clear-interrupt frame fail. -/
theorem witness_DeinitClosesBothPorts :
    ((up [yes [], yes [8, 0, 0], yes [], yes [], yes []]).asPrinted
      ∧ 1 = (if (up [yes [], yes [8, 0, 0], yes [], yes [], yes []]).irqAt 1 then 1 else 0)
      ∧ (up [yes [], yes [8, 0, 0], yes [], yes [], yes []]).portsOk (2 + 1)
      ∧ ((up [yes [], yes [8, 0, 0], yes [], yes [], yes []]).answerAt (2 + 1)).ok = true
      ∧ ((up [yes [], yes [8, 0, 0], yes [], yes [], yes []]).answerAt (3 + 1)).ok = true)
    ∧ (0 = (if (up [yes [], yes [1, 0, 0], yes [], no]).irqAt 1 then 1 else 0)
      ∧ (up [yes [], yes [1, 0, 0], yes [], no]).portsOk (2 + 0)
      ∧ ((up [yes [], yes [1, 0, 0], yes [], no]).answerAt (2 + 0)).ok = true
      ∧ ((up [yes [], yes [1, 0, 0], yes [], no]).answerAt (3 + 0)).ok = false)
    ∧ ((up [yes [], yes [1, 0, 0], no]).portsOk (2 + 0)
      ∧ ((up [yes [], yes [1, 0, 0], no]).answerAt (2 + 0)).ok = false)
    ∧ ((up [no, yes [], yes []]).asPrinted ∧ ((up [no, yes [], yes []]).answerAt 0).ok = false)
    ∧ (((up [yes [], no, yes [], yes []]).answerAt 0).ok = true
      ∧ ((up [yes [], no, yes [], yes []]).answerAt 1).ok = false)
    ∧ (up [yes [], yes [8, 0, 0], no, yes [], yes []]).portsOk 2
      ∧ (up [yes [], yes [8, 0, 0], no, yes [], yes []]).irqAt 1 = true
      ∧ ((up [yes [], yes [8, 0, 0], no, yes [], yes []]).answerAt 2).ok = false := by decide

theorem witness_GatedOperationsNeedInit :
    (down []).seq = .idle ∧ (down []).initialized = false ∧ (HostOp.setVolume 8).isGated = true := by decide

theorem witness_FailedFrameEndsTheCommand :
    (up [no]).ready ∧ ((up [no]).answerAt 0).ok = false
      ∧ rangeLegal 0x000 0x1EF (up [no]).endAddress = true := by decide

/-- Nothing pending; EOM and INT, cleared; EOM, and the clear-interrupt frame fails. -/
theorem witness_IrqHandlerDispatchesEomThenInt :
    ((up [yes [4, 0, 1]]).ready ∧ ((up [yes [4, 0, 1]]).answerAt 0).ok = true
      ∧ (up [yes [4, 0, 1]]).irqAt 0 = false)
    ∧ (((up [yes [0x18, 0, 1], yes []]).answerAt 0).ok = true
      ∧ (up [yes [0x18, 0, 1], yes []]).irqAt 0 = true
      ∧ ((up [yes [0x18, 0, 1], yes []]).answerAt 1).ok = true)
    ∧ ((up [yes [8, 0, 1], no]).answerAt 0).ok = true ∧ (up [yes [8, 0, 1], no]).irqAt 0 = true
      ∧ ((up [yes [8, 0, 1], no]).answerAt 1).ok = false
      ∧ (up [no]).ready ∧ ((up [no]).answerAt 0).ok = false
      ∧ (down []).seq = .idle ∧ (down []).initialized = false := by decide

theorem witness_NoCommandWritesTheHandle :
    ∃ t, exec .stop (up [yes [], yes [4, 0, 0]]) = .next t ∧ decide (t.result = .ok) = true :=
  next_of_after (f := fun t => decide (t.result = .ok)) (by decide)

/-- An initialized engine, and a step that polls. -/
theorem witness_StepKeepsTheInvariant :
    (up [yes [], yes [4, 0, 0]]).Inv
      ∧ ∃ t, step { up [yes [], yes [4, 0, 0]] with inputs := [.op .powerUp] } = .next t
          ∧ decide (t.result = .ok) = true :=
  ⟨by decide, next_of_after (f := fun t => decide (t.result = .ok)) (by decide)⟩

/-- A step that sends a frame that fails. -/
theorem witness_EveryFrameOnTheWireIsACommand :
    testParams.valid = true ∧ (up [no]).wireDisciplined
      ∧ ∃ t, step { up [no] with inputs := [.op .play] } = .next t
          ∧ decide (t.trace = [.xferFail [0x02, 0x00]]) = true :=
  ⟨by decide, fun _ h => absurd h (by simp [up, down, State.reset]),
    next_of_after (f := fun t => decide (t.trace = [.xferFail [0x02, 0x00]])) (by decide)⟩

/-- Every clause: INIT, DEINIT, SET_TYPE, SET_VOLUME_CONTROL, IRQ_HANDLER, CLR_INT_DONE and an engine reset change
what they may. -/
theorem witness_HandleRegistersHaveTheirWriters :
    (∃ t, step { p1 with inputs := [.op .init] } = .next t
      ∧ decide (t.initialized = true ∧ t.endAddress ≠ p1.endAddress) = true)
    ∧ (∃ t, step { up [no, yes [], yes []] with inputs := [.op .deinit] } = .next t
      ∧ decide (t.initialized = false) = true)
    ∧ (∃ t, step { up [] with inputs := [.op (.setType 15)] } = .next t
      ∧ decide (t.chipVariant ≠ (up []).chipVariant) = true)
    ∧ (∃ t, step { up [yes [], yes []] with inputs := [.op (.setVolumeControl .button)] } = .next t
      ∧ decide (t.volSrc ≠ (up []).volSrc) = true)
    ∧ (∃ t, step { up [yes [0x10], yes []] with inputs := [.op .irqHandler] } = .next t
      ∧ decide (t.interruptDone = true) = true)
    ∧ (∃ t, step { (up []).setInterruptDone true with inputs := [.op .clrIntDone] } = .next t
      ∧ decide (t.interruptDone = false) = true)
    ∧ ∃ t, step { (up []).setInterruptDone true with inputs := [.engineReset] } = .next t
      ∧ decide (t.initialized = false ∧ t.chipVariant ≠ 3 ∧ t.endAddress ≠ 0x1EF ∧ t.volSrc ≠ .register
          ∧ t.interruptDone = false) = true :=
  ⟨next_of_after (f := fun t => decide (t.initialized = true ∧ t.endAddress ≠ p1.endAddress)) (by decide),
    next_of_after (f := fun t => decide (t.initialized = false)) (by decide),
    next_of_after (f := fun t => decide (t.chipVariant ≠ (up []).chipVariant)) (by decide),
    next_of_after (f := fun t => decide (t.volSrc ≠ (up []).volSrc)) (by decide),
    next_of_after (f := fun t => decide (t.interruptDone = true)) (by decide),
    next_of_after (f := fun t => decide (t.interruptDone = false)) (by decide),
    next_of_after (f := fun t => decide (t.initialized = false ∧ t.chipVariant ≠ 3 ∧ t.endAddress ≠ 0x1EF
      ∧ t.volSrc ≠ .register ∧ t.interruptDone = false)) (by decide)⟩

theorem witness_StepAppendsToTheTrace :
    ∃ t, step { up [yes []] with inputs := [.op .play] } = .next t
      ∧ decide (t.trace = [.xfer [0x02, 0x00] [0x00, 0x00], .delay 500]) = true :=
  next_of_after (f := fun t => decide (t.trace = [.xfer [0x02, 0x00] [0x00, 0x00], .delay 500]))
    (by decide)

/-- The first code that is no variant. -/
theorem witness_EndAddressTable : 9 < (10 : VariantCode).toNat ∧ 9 < (15 : VariantCode).toNat := by decide

end Sys2Proof.Tests
end

section
/-! Proofs. What every step does to the trace, the parameters and the sequencer: each body of an operation ends well
from `CommandIssued`, so every row and every host operation `Moves` the machine and comes back to `Idle`; and what a
step runs, said once. -/

namespace Sys2Proof.Machine

/-! ## Parts that write one register -/

/-- A write of registers that `Moves` does not speak of. -/
theorem Moves.of_eq {s t : State} (hinst : instanceKept s t) (htrace : t.trace = s.trace)
    (hseq : t.seq = s.seq) (hlog : t.seqLog = s.seqLog) (hcnt : t.timeoutCnt = s.timeoutCnt) :
    Moves s t :=
  ⟨hinst, ⟨[], by simp [htrace], fun _ e he => by simp at he⟩, ⟨[], by simp [hlog], hseq.symm⟩,
    fun hc => hcnt ▸ hc⟩

theorem moves_setChipVariant (s : State) (v : VariantCode) : Moves s (s.setChipVariant v) :=
  .of_eq (instanceKept_refl s) rfl rfl rfl rfl

theorem moves_setEndAddress (s : State) (a : Addr) : Moves s (s.setEndAddress a) :=
  .of_eq (instanceKept_refl s) rfl rfl rfl rfl

theorem moves_setVolSrc (s : State) (src : VolSrc) : Moves s (s.setVolSrc src) :=
  .of_eq (instanceKept_refl s) rfl rfl rfl rfl

theorem moves_setInitialized (s : State) (b : Bool) : Moves s (s.setInitialized b) :=
  .of_eq (instanceKept_refl s) rfl rfl rfl rfl

theorem moves_setInterruptDone (s : State) (b : Bool) : Moves s (s.setInterruptDone b) :=
  .of_eq (instanceKept_refl s) rfl rfl rfl rfl

theorem moves_markReady (s : State) : Moves s s.markReady :=
  (moves_setVolSrc s .register).trans (moves_setInitialized _ true)

/-- A part preceded by moves that keep the sequencer's state. -/
theorem Moves.endsWell {s t : State} {P : SeqState → Prop} {r : Res} (h : Moves s t)
    (hr : EndsWell t P r) : EndsWell s P r := by
  cases r with
  | ok u => exact ⟨h.trans hr.1, hr.2⟩
  | err e u => exact ⟨h.trans hr.1, hr.2⟩
  | stuck => trivial

/-- A quiet part, at work, leaves the sequencer where it was. -/
theorem EndsWell.of_quiet_at {s : State} {P : SeqState → Prop} {r : Res} (h : r.sat (Quiet s))
    (hp : r.plain) (hw : working s.seq) (hP : P s.seq) : EndsWell s P r :=
  (EndsWell.of_quiet h hp hw).mono fun _ hq => hq ▸ hP

/-! ## The bodies of the gated operations -/

theorem rangeCommand_ends (i : Instr) (a b : Addr) (s : State) (hs : s.seq = .commandIssued) :
    EndsWell s working (rangeCommand i a b s) :=
  (EndsWell.of_quiet (rangeCheck_sat a b s) (rangeCheck_plain a b s) (.inl hs)).andThen
    fun t ht => command_ends i t (ht.trans hs)

theorem checkedFieldSet_ends (f : ApcField) (v : Word12) (s : State) (hs : s.seq = .commandIssued) :
    EndsWell s working (checkedFieldSet f v s) :=
  postChecked_ends _ (apcFieldSet_sat f v s) (apcFieldSet_plain f v s) hs

/-- An APC read and the post-check after it. -/
theorem apcReadChecked_ends (c : PostCheck) (s : State) (hs : s.seq = .commandIssued) :
    EndsWell s working ((apcRead s).andThen (runPostCheck c)) :=
  postChecked_ends c (apcRead_sat s) (apcRead_plain s) hs

/-- An APC write and the post-check after it. -/
theorem apcWriteChecked_ends (w : Word12) (src : VolSrc) (c : PostCheck) (s : State)
    (hs : s.seq = .commandIssued) : EndsWell s working ((apcWrite w src s).andThen (runPostCheck c)) :=
  postChecked_ends c (apcWrite_sat w src s) (apcWrite_plain w src s) hs

theorem irqDispatch_ends (s : State) (hs : s.seq = .commandIssued) :
    EndsWell s working (irqDispatch s) := by
  have hnotify : ∀ kind (t : State), t.seq = .commandIssued →
      EndsWell t (· = .commandIssued) (notify kind t) := fun kind t ht =>
    .of_quiet_at (notify_sat kind t) (notify_plain kind t) (.inl ht) ht
  unfold irqDispatch
  refine EndsWell.andThen (P := (· = .commandIssued)) ?_ fun t ht => ?_
  · split
    · exact hnotify .eom s hs
    · exact ⟨Moves.refl s, hs⟩
  · split
    · exact (moves_setInterruptDone t true).endsWell
        ((hnotify .int (t.setInterruptDone true) ht).mono fun _ h => .inl h)
    · exact ⟨Moves.refl t, .inl ht⟩

/-! ## INIT and DEINIT -/

theorem ignoreErr_plain (r : Res) : r.ignoreErr.plain := by
  cases r <;> trivial

/-- Where the GPIO open fails, PHY is closed and the failure raised (R252). -/
theorem openPorts_ends (s : State) (hs : s.seq = .commandIssued) :
    EndsWell s (· = .commandIssued) (openPorts s) := by
  unfold openPorts
  have hphy : EndsWell s (· = .commandIssued) (phyInit s) :=
    .of_quiet_at (phyInit_sat s) (portCall_plain _ s) (.inl hs) hs
  refine hphy.andThen fun t ht => ?_
  have hgpio : EndsWell t (· = .commandIssued) (gpioInit t) :=
    .of_quiet_at (gpioInit_sat t) (portCall_plain _ t) (.inl ht) ht
  have hquiet := gpioInit_sat t
  cases hr : gpioInit t with
  | ok u => rw [hr] at hgpio; exact hgpio
  | stuck => trivial
  | err e u =>
      rw [hr] at hgpio hquiet
      obtain ⟨hmoves, hraised⟩ := hgpio
      have hu : u.seq = .commandIssued := hquiet.seq.trans ht
      have hclose : EndsWell u (· = .commandIssued) (phyDeinit u).ignoreErr :=
        .of_quiet_at (Res.sat_ignoreErr (phyDeinit_sat u)) (ignoreErr_plain _) (.inl hu) hu
      exact hmoves.endsWell (hclose.andThen fun v hv =>
        ⟨Moves.refl v, raisedAt_working (raisedAt_ne_ok hraised) (.inl hv)⟩)

theorem resetPulse_ends (s : State) (hs : s.seq = .commandIssued) :
    EndsWell s (· = .commandIssued) (resetPulse s) := by
  have hwrite : ∀ level (t : State), t.seq = .commandIssued →
      EndsWell t (· = .commandIssued) (gpioWrite level t).orRelease := fun level t ht =>
    orRelease_ends (.of_quiet_at (gpioWrite_sat level t) (portCall_plain _ t) (.inl ht) ht)
  have hdelay : ∀ t : State, t.seq = .commandIssued → EndsWell t (· = .commandIssued) (delay 1 t) :=
    fun t ht => .of_quiet_at (delay_sat 1 t) (delay_plain 1 t) (.inl ht) ht
  exact (((hwrite true s hs).andThen hdelay).andThen (hwrite false)).andThen hdelay

theorem tryCommand_ends (i : Instr) (s : State) (hs : s.seq = .commandIssued) :
    EndsWell s (· = .commandIssued) (tryCommand i s) :=
  orRelease_ends (proceed_ends (command_ends i s hs))

theorem identify_ends (id : Byte) (s : State) (hs : s.seq = .commandIssued) :
    EndsWell s (· = .commandIssued) (identify id s) := by
  have hraise : ∀ e, e ≠ .ok → EndsWell s (· = .commandIssued) (releaseAndRaise e s) :=
    fun e he => releaseAndRaise_ends he (by simp [State.backToIssued, hs, working])
  unfold identify
  split
  · exact hraise _ (by simp)
  · split
    · exact ⟨moves_setEndAddress s _, hs⟩
    · exact hraise _ (by simp)

theorem identityCheck_ends (s : State) (hs : s.seq = .commandIssued) :
    EndsWell s (· = .commandIssued) (identityCheck s) := by
  have hframe : EndsWell s (· = .commandIssued) (sendFrame .rdDevid s).orRelease :=
    orRelease_ends (.of_quiet_at (sendFrame_sat _ s) (sendFrame_plain _ s) (.inl hs) hs)
  refine hframe.andThen fun t ht => ?_
  exact (orRelease_ends (proceed_ends (runPostCheck_ends _ t ht))).andThen (identify_ends _)

theorem initBody_ends (s : State) (hs : s.seq = .commandIssued) : EndsWell s working (initBody s) := by
  unfold initBody
  split
  · have hparts := ((((openPorts_ends s hs).andThen resetPulse_ends).andThen
      (tryCommand_ends .pu)).andThen identityCheck_ends).andThen (tryCommand_ends .reset)
    exact hparts.andThen fun t ht => ⟨moves_markReady t, .inl ht⟩
  · exact ⟨Moves.refl s, .inl hs⟩

theorem deinitPowerDown_ends (s : State) (hs : s.seq = .commandIssued) :
    EndsWell s working (deinitPowerDown s) := by
  have hcommand := proceed_ends (command_ends .pd s hs)
  unfold deinitPowerDown
  cases hr : (command .pd s).proceed with
  | ok t => rw [hr] at hcommand; exact ⟨hcommand.1, .inl hcommand.2⟩
  | stuck => trivial
  | err e t =>
      rw [hr] at hcommand
      exact ⟨hcommand.1.trans (backToIssued_moves t), backToIssued_working hcommand.2⟩

theorem deinitBody_ends (s : State) (hs : s.seq = .commandIssued) :
    EndsWell s working (deinitBody s) :=
  (((deinitPowerDown_ends s hs).andThen fun t ht =>
    .of_quiet_at (phyDeinit_sat t) (portCall_plain _ t) ht ht).andThen fun t ht =>
    .of_quiet_at (gpioDeinit_sat t) (portCall_plain _ t) ht ht).andThen fun t ht =>
    ⟨moves_setInitialized t false, ht⟩

/-! ## Every row and every host operation -/

/-- Every row moves the machine by transitions of R290, only appends to the trace, and comes back to `Idle`. -/
theorem exec_moves {i : Instr} {s t : State} (h : exec i s = .next t) : Moves s t ∧ t.seq = .idle := by
  cases i with
  | pu | stop | reset | clrInt | rdPlayPtr | pd | rdRecPtr | rdDevid | play | record | erase | gErase
  | wrNvcfg | ldNvcfg | fwd | chkMem | extclk => exact gated_moves (command_ends _) h
  | rdStatus => exact gated_moves (ends_of_quiet_body (statusRead_sat 0) (statusRead_plain 0)) h
  | rdApc => exact gated_moves (fun u hu => apcReadChecked_ends _ u hu) h
  | wrApcBtn w => exact gated_moves (fun u hu => apcWriteChecked_ends w .button _ u hu) h
  | wrApcReg w => exact gated_moves (fun u hu => apcWriteChecked_ends w .register _ u hu) h
  | setPlay a b | setRec a b | setErase a b => exact gated_moves (rangeCommand_ends _ a b) h

theorem hostPollWait_moves {mask : Byte} {timeout settle : Nat} {s t : State}
    (h : hostPollWait mask timeout settle s = .next t) : Moves s t ∧ t.seq = .idle := by
  refine gated_moves (fun u hu => ?_) h
  exact (checkPoll_ends mask _ _ u hu).mono fun _ hq => .inr hq

theorem hostIrqHandler_moves {s t : State} (h : hostIrqHandler s = .next t) :
    Moves s t ∧ t.seq = .idle := by
  refine gated_moves (fun u hu => ?_) h
  exact (EndsWell.of_quiet (statusRead_sat 0 u) (statusRead_plain 0 u) (.inl hu)).andThen
    fun v hv => irqDispatch_ends v (hv.trans hu)

theorem hostSetVolume_moves {level : Byte} {s t : State} (h : hostSetVolume level s = .next t) :
    Moves s t ∧ t.seq = .idle := by
  refine gated_moves (fun u hu => ?_) h
  split
  · exact ⟨Moves.refl u, .inl hu⟩
  · exact checkedFieldSet_ends _ _ u hu

theorem hostFieldSet_moves {f : ApcField} {v : Word12} {s t : State}
    (h : hostFieldSet f v s = .next t) : Moves s t ∧ t.seq = .idle :=
  gated_moves (checkedFieldSet_ends f v) h

theorem hostFieldGet_moves {f : ApcField} {s t : State} (h : hostFieldGet f s = .next t) :
    Moves s t ∧ t.seq = .idle :=
  gated_moves (fun u hu => apcReadChecked_ends _ u hu) h

theorem hostSetVolumeControl_moves {src : VolSrc} {s t : State}
    (h : hostSetVolumeControl src s = .next t) : Moves s t ∧ t.seq = .idle := by
  refine gated_moves (fun u hu => ?_) h
  have hframes : EndsWell u working (((apcRead u).andThen fun s => apcWrite s.apcTmp src s).andThen
      (runPostCheck u.params.postCheck.setVolumeControl)) :=
    postChecked_ends _ (quiet_chain (apcRead_sat u) fun v => apcWrite_sat v.apcTmp src v)
      (Res.plain_andThen (apcRead_plain u) fun v => apcWrite_plain v.apcTmp src v) hu
  exact hframes.andThen fun v hv => ⟨moves_setVolSrc v src, hv⟩

theorem hostInit_moves {s t : State} (h : hostInit s = .next t) : Moves s t ∧ t.seq = .idle := by
  unfold hostInit at h
  split at h
  · cases h
  · exact operation_moves initBody_ends h

/-- An operation whose body reads the handle, or writes one register of it, and calls no port. -/
theorem operation_moves_of_write {write : State → State} {data : State → Option Data} {s t : State}
    (hw : ∀ u, Moves u (write u)) (hseq : ∀ u, (write u).seq = u.seq)
    (h : operation (fun u => .ok (write u)) data s = .next t) : Moves s t ∧ t.seq = .idle :=
  operation_moves (body := fun u => .ok (write u)) (fun u hu => ⟨hw u, .inl ((hseq u).trans hu)⟩) h

/-- Every host operation moves the machine by transitions of R290, only appends to the trace, and comes back to
`Idle`. -/
theorem execHost_moves {o : HostOp} {s t : State} (h : execHost o s = .next t) :
    Moves s t ∧ t.seq = .idle := by
  cases o with
  | setType v => exact operation_moves_of_write (moves_setChipVariant · v) (fun _ => rfl) h
  | clrIntDone => exact operation_moves_of_write (moves_setInterruptDone · false) (fun _ => rfl) h
  | getType | getIntDone => exact operation_moves_of_write Moves.refl (fun _ => rfl) h
  | init => exact hostInit_moves h
  | deinit => exact gated_moves deinitBody_ends h
  | powerUp | powerDown | stop | reset | clearInterrupt | next | checkMemory | readPlayPointer
  | readRecordPointer | readDeviceId | writeNvConfig | loadNvConfig | toggleExtClock | getStatus
  | readApc | setPlayRange | setRecordRange | setEraseRange | play | record | erase
  | globalErase =>
      simp only [execHost] at h
      exact exec_moves h
  | pollWait => exact hostPollWait_moves h
  | irqHandler => exact hostIrqHandler_moves h
  | writeApc w => exact gated_moves (fun u hu => apcWriteChecked_ends w u.volSrc _ u hu) h
  | setVolume => exact hostSetVolume_moves h
  | setMonitorInput | setMixInput | setSeEditing | setSpiFt | setAnalogOutput | setPwmSpeaker
  | setPuAnalogOutput | setVoltageAlert | setEomStop => exact hostFieldSet_moves h
  | getVolume | getMonitorInput | getMixInput | getSeEditing | getSpiFt | getAnalogOutput
  | getPwmSpeaker | getPuAnalogOutput | getVoltageAlert | getEomStop => exact hostFieldGet_moves h
  | setVolumeControl => exact hostSetVolumeControl_moves h
  | getVolumeControl =>
      exact gated_moves (body := .ok) (fun u hu => ⟨Moves.refl u, .inl hu⟩) h

/-! ## The step -/

/-- An idle engine takes the next outside event off the list and runs it (R6, R7). -/
theorem step_of_input {s : State} {i : Input} {rest : List Input} (hseq : s.seq = .idle)
    (hin : s.inputs = i :: rest) : step s = runInput i { s with inputs := rest } := by
  simp [step, hseq, hin]

/-- What a step that answers a next state can have been: an idle engine with nothing requested, an outside event run
at the idle engine, or the return from a terminal state. -/
theorem step_next {s t : State} (h : step s = .next t) :
    (s.seq = .idle ∧ s.inputs = [] ∧ t = s)
    ∨ (∃ i rest, s.seq = .idle ∧ s.inputs = i :: rest ∧ runInput i { s with inputs := rest } = .next t)
    ∨ ((s.seq = .completed ∨ s.seq = .timedOut ∨ s.seq = .commandError) ∧ t = s.setSeq .idle) := by
  cases hseq : s.seq with
  | idle =>
      cases hin : s.inputs with
      | nil =>
          simp only [step, hseq, hin, Host.Outcome.next.injEq] at h
          exact .inl ⟨rfl, rfl, h.symm⟩
      | cons i rest =>
          rw [step_of_input hseq hin] at h
          exact .inr (.inl ⟨i, rest, rfl, rfl, hseq ▸ h⟩)
  | completed | timedOut | commandError =>
      simp only [step, hseq, Host.Outcome.next.injEq] at h
      exact .inr (.inr ⟨by simp, h.symm⟩)
  | commandIssued | polling => simp [step, hseq] at h

/-- The parameters are kept, and the trace only grows (R10, R17). -/
def paramsAndTraceKept (s t : State) : Prop := t.params = s.params ∧ ∃ es, t.trace = s.trace ++ es

theorem paramsAndTraceKept_of_eq {s t : State} (hp : t.params = s.params) (ht : t.trace = s.trace) :
    paramsAndTraceKept s t := ⟨hp, [], by simp [ht]⟩

theorem Moves.paramsAndTraceKept {s t : State} (h : Moves s t) : paramsAndTraceKept s t := by
  obtain ⟨-, -, hparams, -⟩ := h.inst
  obtain ⟨es, hes, -⟩ := h.trace
  exact ⟨hparams, es, hes⟩

/-- Every outside event keeps the parameters and only appends to the trace: an accepted request `Moves`; the straps
and the engine reset write neither. -/
theorem runInput_paramsAndTraceKept {i : Input} {s t : State} (h : runInput i s = .next t) :
    paramsAndTraceKept s t := by
  cases i with
  | frame bytes =>
      simp only [runInput] at h
      split at h
      · exact (exec_moves h).1.paramsAndTraceKept
      · cases h; exact paramsAndTraceKept_of_eq rfl rfl
  | op o => exact (execHost_moves h).1.paramsAndTraceKept
  | straps bindingsOk eventCbPresent => cases h; exact paramsAndTraceKept_of_eq rfl rfl
  | engineReset => cases h; exact paramsAndTraceKept_of_eq rfl rfl

/-! ## The obligations -/

/-- Settles O59: of the three things a step can be, only an outside event reaches the trace. -/
theorem stepAppendsToTheTrace : Obligations.StepAppendsToTheTrace := by
  intro s t h
  rcases step_next h with ⟨-, -, rfl⟩ | ⟨i, rest, -, -, hrun⟩ | ⟨-, rfl⟩
  · exact paramsAndTraceKept_of_eq rfl rfl
  · exact (runInput_paramsAndTraceKept hrun :)
  · exact paramsAndTraceKept_of_eq rfl rfl

/-- Settles O9: the decoder's answer selects the row that `runInput` runs. -/
theorem stepRunsTheDecodedInstruction : Obligations.StepRunsTheDecodedInstruction := by
  intro s bytes rest i hseq hin hdecode
  rw [step_of_input hseq hin]
  simp only [runInput, hdecode]

/-- Settles O10, each clause an arm of `runInput`. -/
theorem stepRunsTheRequestedOperation : Obligations.StepRunsTheRequestedOperation :=
  ⟨fun _ _ _ hseq hin => step_of_input hseq hin, fun _ _ _ _ hseq hin => step_of_input hseq hin⟩

end Sys2Proof.Machine
end

section
/-! Proofs. Who writes the handle (R20 to R24): the parts of every operation keep it, but for the one write that the
rule of a register names; a step's effect on the handle is therefore one `HandleWrite` of its outside event. -/

namespace Sys2Proof.Machine

/-! ## The writes of the handle -/

/-- The writes of the handle that an outside event may come to, by the result code it ends with (R20 to R24, R310).
`none` is a step that takes no event. -/
inductive HandleWrite : Option Input → ErrCode → (State → State) → Prop
  | nothing (i : Option Input) (e : ErrCode) : HandleWrite i e id
  | setType (v : VariantCode) (e : ErrCode) : HandleWrite (some (.op (.setType v))) e (·.setChipVariant v)
  | clrIntDone (e : ErrCode) : HandleWrite (some (.op .clrIntDone)) e (·.setInterruptDone false)
  | irqHandler (e : ErrCode) : HandleWrite (some (.op .irqHandler)) e (·.setInterruptDone true)
  | setVolumeControl (src : VolSrc) (e : ErrCode) :
      HandleWrite (some (.op (.setVolumeControl src))) e (·.setVolSrc src)
  | identified (a : Addr) (e : ErrCode) : HandleWrite (some (.op .init)) e (·.setEndAddress a)
  | ready (a : Addr) : HandleWrite (some (.op .init)) .ok fun s => (s.setEndAddress a).markReady
  | closed : HandleWrite (some (.op .deinit)) .ok (·.setInitialized false)
  | engineReset (e : ErrCode) : HandleWrite (some .engineReset) e State.engineReset

/-- From `s` to `t` the handle changed by a write that `i`, ended with the result of `t`, may come to. -/
def handleWritten (i : Option Input) (s t : State) : Prop :=
  ∃ write, HandleWrite i t.result write ∧ handleKept (write s) t

theorem handleWritten_of_kept {i : Option Input} {s t : State} (h : handleKept s t) :
    handleWritten i s t := ⟨id, .nothing i _, h⟩

namespace HandleWrite

section
variable {i : Option Input} {e : ErrCode} {write : State → State}

/-- What a write leaves in the handle depends on the handle alone. -/
theorem congr_handle (hw : HandleWrite i e write) {s t : State} (h : handleKept s t) :
    handleKept (write s) (write t) := by
  obtain ⟨hchip, hend, hvol, hinit, hint⟩ := h
  cases hw <;> simp [handleKept, State.engineReset, *]

theorem initialized_rises (hw : HandleWrite i e write) {s : State} (hs : s.initialized = false)
    (ht : (write s).initialized = true) : i = some (.op .init) ∧ e = .ok := by
  cases hw with
  | ready => exact ⟨rfl, rfl⟩
  | _ => simp_all [State.engineReset, State.reset]

theorem initialized_falls (hw : HandleWrite i e write) {s : State} (hs : s.initialized = true)
    (ht : (write s).initialized = false) :
    (i = some (.op .deinit) ∧ e = .ok) ∨ i = some .engineReset := by
  cases hw with
  | closed => exact .inl ⟨rfl, rfl⟩
  | engineReset => exact .inr rfl
  | _ => simp_all

theorem chipVariant_changes (hw : HandleWrite i e write) {s : State}
    (ht : (write s).chipVariant ≠ s.chipVariant) :
    (∃ v, i = some (.op (.setType v))) ∨ i = some .engineReset := by
  cases hw with
  | setType v => exact .inl ⟨v, rfl⟩
  | engineReset => exact .inr rfl
  | _ => simp at ht

theorem endAddress_changes (hw : HandleWrite i e write) {s : State}
    (ht : (write s).endAddress ≠ s.endAddress) : i = some (.op .init) ∨ i = some .engineReset := by
  cases hw with
  | identified | ready => exact .inl rfl
  | engineReset => exact .inr rfl
  | _ => simp at ht

theorem volSrc_changes (hw : HandleWrite i e write) {s : State} (ht : (write s).volSrc ≠ s.volSrc) :
    i = some (.op .init) ∨ (∃ src, i = some (.op (.setVolumeControl src))) ∨ i = some .engineReset := by
  cases hw with
  | ready => exact .inl rfl
  | setVolumeControl src => exact .inr (.inl ⟨src, rfl⟩)
  | engineReset => exact .inr (.inr rfl)
  | _ => simp at ht

theorem interruptDone_rises (hw : HandleWrite i e write) {s : State} (hs : s.interruptDone = false)
    (ht : (write s).interruptDone = true) : i = some (.op .irqHandler) := by
  cases hw with
  | irqHandler => rfl
  | _ => simp_all [State.engineReset, State.reset]

theorem interruptDone_falls (hw : HandleWrite i e write) {s : State} (hs : s.interruptDone = true)
    (ht : (write s).interruptDone = false) : i = some (.op .clrIntDone) ∨ i = some .engineReset := by
  cases hw with
  | clrIntDone => exact .inl rfl
  | engineReset => exact .inr rfl
  | _ => simp_all

end

end HandleWrite

/-! ## The end of an operation, for any property of the state its body leaves -/

/-- The handle after a gated operation is the handle of a state its body leaves, or the handle before it. -/
theorem gated_sat {body : State → Res} {data : State → Option Data} {s t : State} {P : State → Prop}
    (hkept : ∀ u, handleKept s u → P u) (hb : ∀ u, handleKept s u → (body u).sat P)
    (h : gated body data s = .next t) : ∃ u, P u ∧ handleKept u t := by
  have hgate : (requireInit (s.setSeq .commandIssued)).sat (handleKept s) :=
    (handle_of_quiet (requireInit_sat (s.setSeq .commandIssued)) :)
  have hbody := Res.sat_andThen hgate hkept hb
  obtain ⟨-, ⟨u, hu, rfl⟩ | ⟨e, u, hu, rfl⟩⟩ := operation_next h
  · exact ⟨u, by rwa [hu] at hbody, by simp [handleKept]⟩
  · exact ⟨u, by rwa [hu] at hbody, by simp [handleKept]⟩

/-- An operation whose last part is a write: a part before it raised, or the write was made and the operation ends
in `Ok`. -/
theorem operation_write {parts : State → Res} {write : State → State} {data : State → Option Data}
    {s t : State} {P : State → Prop} (hparts : (parts (s.setSeq .commandIssued)).sat P)
    (h : operation (fun u => (parts u).andThen fun v => .ok (write v)) data s = .next t) :
    (∃ u, P u ∧ handleKept u t) ∨ (t.result = .ok ∧ ∃ u, P u ∧ handleKept (write u) t) := by
  obtain ⟨-, ⟨u, hu, rfl⟩ | ⟨e, u, hu, rfl⟩⟩ := operation_next h
  · obtain ⟨v, hv, hvu⟩ := andThen_ok_iff.1 hu
    cases hvu
    exact .inr ⟨by simp, v, by rwa [hv] at hparts, by simp [handleKept]⟩
  · cases hr : parts (s.setSeq .commandIssued) with
    | ok v => simp [hr] at hu
    | stuck => simp [hr] at hu
    | err e' v =>
        simp only [hr, andThen_err, Res.err.injEq] at hu
        obtain ⟨rfl, rfl⟩ := hu
        exact .inl ⟨v, by rwa [hr] at hparts, by simp [handleKept]⟩

/-- An operation that keeps the handle up to its last part, a write that its request may come to. -/
theorem operation_written {parts : State → Res} {write : State → State} {data : State → Option Data}
    {s t : State} {i : Option Input} (hparts : ∀ u, (parts u).sat (handleKept u))
    (hw : HandleWrite i .ok write)
    (h : operation (fun u => (parts u).andThen fun v => .ok (write v)) data s = .next t) :
    handleWritten i s t := by
  have hs : (parts (s.setSeq .commandIssued)).sat (handleKept s) := hparts _
  rcases operation_write hs h with ⟨u, hu, ht⟩ | ⟨hok, u, hu, ht⟩
  · exact handleWritten_of_kept (handleKept_trans hu ht)
  · exact ⟨write, hok ▸ hw, handleKept_trans (hw.congr_handle hu) ht⟩

theorem andThen_assoc (r : Res) (k l : State → Res) :
    (r.andThen k).andThen l = r.andThen fun s => (k s).andThen l := by
  cases r <;> rfl

theorem gated_written {parts : State → Res} {write : State → State} {data : State → Option Data}
    {s t : State} {i : Option Input} (hparts : ∀ u, (parts u).sat (handleKept u))
    (hw : HandleWrite i .ok write)
    (h : gated (fun u => (parts u).andThen fun v => .ok (write v)) data s = .next t) :
    handleWritten i s t := by
  refine operation_written (parts := fun u => (requireInit u).andThen parts)
    (data := data)
    (fun u => handle_chain (handle_of_quiet (requireInit_sat u)) hparts) hw ?_
  simpa only [gated, andThen_assoc] using h

/-! ## The operations that write no handle register -/

theorem rangeCommand_handle (i : Instr) (a b : Addr) (s : State) :
    (rangeCommand i a b s).sat (handleKept s) :=
  handle_chain (handle_of_quiet (rangeCheck_sat a b s)) (command_handle i)

theorem apcReadChecked_handle (c : PostCheck) (s : State) :
    ((apcRead s).andThen (runPostCheck c)).sat (handleKept s) :=
  handle_chain (handle_of_quiet (apcRead_sat s)) (runPostCheck_handle c)

theorem apcWriteChecked_handle (w : Word12) (src : VolSrc) (c : PostCheck) (s : State) :
    ((apcWrite w src s).andThen (runPostCheck c)).sat (handleKept s) :=
  handle_chain (handle_of_quiet (apcWrite_sat w src s)) (runPostCheck_handle c)

theorem checkedFieldSet_handle (f : ApcField) (v : Word12) (s : State) :
    (checkedFieldSet f v s).sat (handleKept s) :=
  handle_chain (handle_of_quiet (apcFieldSet_sat f v s)) (runPostCheck_handle _)

/-- No row of the table writes a handle register (R214, R239, R240). -/
theorem exec_handle {i : Instr} {s t : State} (h : exec i s = .next t) : handleKept s t := by
  cases i with
  | pu | stop | reset | clrInt | rdPlayPtr | pd | rdRecPtr | rdDevid | play | record | erase | gErase
  | wrNvcfg | ldNvcfg | fwd | chkMem | extclk => exact gated_handle (command_handle _) h
  | rdStatus => exact gated_handle (fun u => handle_of_quiet (statusRead_sat 0 u)) h
  | rdApc => exact gated_handle (fun u => apcReadChecked_handle _ u) h
  | wrApcBtn w => exact gated_handle (fun u => apcWriteChecked_handle w .button _ u) h
  | wrApcReg w => exact gated_handle (fun u => apcWriteChecked_handle w .register _ u) h
  | setPlay a b | setRec a b | setErase a b => exact gated_handle (rangeCommand_handle _ a b) h

theorem hostPollWait_handle {mask : Byte} {timeout settle : Nat} {s t : State}
    (h : hostPollWait mask timeout settle s = .next t) : handleKept s t :=
  gated_handle (fun u => checkPoll_handle mask _ _ u) h

theorem hostSetVolume_handle {level : Byte} {s t : State} (h : hostSetVolume level s = .next t) :
    handleKept s t := by
  refine gated_handle (fun u => ?_) h
  split
  · exact handleKept_refl u
  · exact checkedFieldSet_handle _ _ u

theorem hostFieldSet_handle {f : ApcField} {v : Word12} {s t : State}
    (h : hostFieldSet f v s = .next t) : handleKept s t :=
  gated_handle (checkedFieldSet_handle f v) h

theorem hostFieldGet_handle {f : ApcField} {s t : State} (h : hostFieldGet f s = .next t) :
    handleKept s t :=
  gated_handle (fun u => apcReadChecked_handle _ u) h

/-! ## The operations that write one -/

theorem hostSetVolumeControl_written {src : VolSrc} {s t : State}
    (h : hostSetVolumeControl src s = .next t) :
    handleWritten (some (.op (.setVolumeControl src))) s t := by
  refine gated_written (fun u => ?_) (.setVolumeControl src .ok) h
  have hframes := quiet_chain (apcRead_sat u) fun v => apcWrite_sat v.apcTmp src v
  exact handle_chain (handle_of_quiet hframes) (runPostCheck_handle _)

/-- The handle is unchanged, but `INTERRUPT_DONE` may have been set (R285). -/
def handleKeptOrIrq (s t : State) : Prop := handleKept s t ∨ handleKept (s.setInterruptDone true) t

/-- EOM is notified and writes no flag; INT sets the flag before it is notified (R285). -/
theorem irqDispatch_handle {s u : State} (h : handleKept s u) :
    (irqDispatch u).sat (handleKeptOrIrq s) := by
  have heom : (if u.eom then notify .eom u else .ok u).sat (handleKept s) := by
    split
    · exact Res.sat_mono (notify_sat .eom u) fun _ hq => handleKept_trans h hq.handle
    · exact h
  refine Res.sat_andThen heom (fun _ => .inl) fun v hv => ?_
  split
  · have hset := (HandleWrite.irqHandler .ok).congr_handle hv
    exact Res.sat_mono (notify_sat .int _) fun _ hq => .inr (handleKept_trans hset hq.handle)
  · exact .inl hv

theorem hostIrqHandler_written {s t : State} (h : hostIrqHandler s = .next t) :
    handleWritten (some (.op .irqHandler)) s t := by
  have hbody : ∀ u, handleKept s u →
      ((statusRead 0 u).andThen irqDispatch).sat (handleKeptOrIrq s) := fun u hu =>
    Res.sat_andThen (Res.sat_mono (statusRead_sat 0 u) fun _ hq => handleKept_trans hu hq.handle)
      (fun _ => .inl) fun _ => irqDispatch_handle
  obtain ⟨u, hu | hu, ht⟩ := gated_sat (fun _ => .inl) hbody h
  · exact handleWritten_of_kept (handleKept_trans hu ht)
  · exact ⟨_, .irqHandler _, handleKept_trans hu ht⟩

/-! ## INIT and DEINIT -/

theorem proceed_handle {r : Res} {s : State} (h : r.sat (handleKept s)) :
    r.proceed.sat (handleKept s) :=
  handle_chain h fun t => by simp [handleKept]

theorem releaseAndRaise_handle (e : ErrCode) (s : State) :
    (releaseAndRaise e s).sat (handleKept s) := by
  have hback : handleKept s s.backToIssued := by simp [handleKept]
  have hrelease := Res.sat_mono (handle_of_quiet (release_sat s.backToIssued)) fun _ =>
    handleKept_trans hback
  exact handle_chain hrelease handleKept_refl

theorem orRelease_handle {r : Res} {s : State} (h : r.sat (handleKept s)) :
    r.orRelease.sat (handleKept s) := by
  cases r with
  | ok t => exact h
  | stuck => trivial
  | err e t => exact Res.sat_mono (releaseAndRaise_handle e t) fun _ => handleKept_trans h

theorem openPorts_handle (s : State) : (openPorts s).sat (handleKept s) := by
  refine handle_chain (handle_of_quiet (phyInit_sat s)) fun t => ?_
  have hgpio := handle_of_quiet (gpioInit_sat t)
  cases hr : gpioInit t with
  | ok u => rw [hr] at hgpio; exact hgpio
  | stuck => trivial
  | err e u =>
      rw [hr] at hgpio
      have hclose := handle_of_quiet (Res.sat_ignoreErr (phyDeinit_sat u))
      exact handle_chain (Res.sat_mono hclose fun _ => handleKept_trans hgpio) handleKept_refl

theorem resetPulse_handle (s : State) : (resetPulse s).sat (handleKept s) := by
  have hwrite : ∀ level t, (gpioWrite level t).orRelease.sat (handleKept t) := fun level t =>
    orRelease_handle (handle_of_quiet (gpioWrite_sat level t))
  have hdelay : ∀ t, (delay 1 t).sat (handleKept t) := fun t => handle_of_quiet (delay_sat 1 t)
  exact handle_chain (handle_chain (handle_chain (hwrite true s) hdelay) (hwrite false)) hdelay

theorem tryCommand_handle (i : Instr) (s : State) : (tryCommand i s).sat (handleKept s) :=
  orRelease_handle (proceed_handle (command_handle i s))

/-- All of the handle but `END_ADDRESS` is unchanged. -/
def handleKeptButEndAddress (s t : State) : Prop := handleKept (s.setEndAddress t.endAddress) t

theorem handleKeptButEndAddress_of_kept {s t : State} (h : handleKept s t) :
    handleKeptButEndAddress s t := by
  obtain ⟨hchip, -, hvol, hinit, hint⟩ := h
  exact ⟨hchip, rfl, hvol, hinit, hint⟩

theorem handleKeptButEndAddress_trans {a b c : State} (h : handleKeptButEndAddress a b)
    (k : handleKeptButEndAddress b c) : handleKeptButEndAddress a c := by
  obtain ⟨hchip, -, hvol, hinit, hint⟩ := h
  obtain ⟨kchip, -, kvol, kinit, kint⟩ := k
  exact ⟨kchip.trans hchip, rfl, kvol.trans hvol, kinit.trans hinit, kint.trans hint⟩

theorem butEndAddress_chain {r : Res} {k : State → Res} {s : State}
    (h : r.sat (handleKeptButEndAddress s)) (hk : ∀ t, (k t).sat (handleKeptButEndAddress t)) :
    (r.andThen k).sat (handleKeptButEndAddress s) :=
  Res.sat_chain (R := handleKeptButEndAddress) handleKeptButEndAddress_trans h hk

theorem butEndAddress_of_handle {r : Res} {s : State} (h : r.sat (handleKept s)) :
    r.sat (handleKeptButEndAddress s) :=
  Res.sat_mono h fun _ => handleKeptButEndAddress_of_kept

theorem identify_butEndAddress (id : Byte) (s : State) :
    (identify id s).sat (handleKeptButEndAddress s) := by
  unfold identify
  split
  · exact butEndAddress_of_handle (releaseAndRaise_handle _ s)
  · split
    · exact handleKept_refl (s.setEndAddress _)
    · exact butEndAddress_of_handle (releaseAndRaise_handle _ s)

theorem identityCheck_butEndAddress (s : State) :
    (identityCheck s).sat (handleKeptButEndAddress s) := by
  have hframe := orRelease_handle (handle_of_quiet (sendFrame_sat .rdDevid s))
  refine butEndAddress_chain (butEndAddress_of_handle hframe) fun t => ?_
  have hcheck := orRelease_handle (proceed_handle (runPostCheck_handle
    (postCheckOf t.params .rdDevid) t))
  exact butEndAddress_chain (butEndAddress_of_handle hcheck) (identify_butEndAddress _)

/-- Steps 1 to 9 of INIT (R252): all but its writes of `VOL_SRC` and `INITIALIZED`. -/
def initParts (s : State) : Res :=
  if s.bindingsOk then
    ((((openPorts s).andThen resetPulse).andThen (tryCommand .pu)).andThen identityCheck).andThen
      (tryCommand .reset)
  else .err .missingBinding s

theorem initBody_eq (s : State) :
    initBody s = (initParts s).andThen fun t => .ok t.markReady := by
  unfold initBody initParts
  split <;> rfl

theorem initParts_butEndAddress (s : State) : (initParts s).sat (handleKeptButEndAddress s) := by
  unfold initParts
  split
  · have hopen := handle_chain (handle_chain (openPorts_handle s) resetPulse_handle)
      (tryCommand_handle .pu)
    exact butEndAddress_chain
      (butEndAddress_chain (butEndAddress_of_handle hopen) identityCheck_butEndAddress)
      fun t => butEndAddress_of_handle (tryCommand_handle .reset t)
  · exact handleKeptButEndAddress_of_kept (handleKept_refl s)

theorem hostInit_written {s t : State} (h : hostInit s = .next t) :
    handleWritten (some (.op .init)) s t := by
  unfold hostInit at h
  split at h
  · cases h
  · rw [funext initBody_eq] at h
    rcases operation_write (initParts_butEndAddress _) h with ⟨u, hu, ht⟩ | ⟨hok, u, hu, ht⟩
    · exact ⟨_, .identified u.endAddress _, handleKept_trans hu ht⟩
    · refine ⟨_, hok ▸ HandleWrite.ready u.endAddress, handleKept_trans ?_ ht⟩
      obtain ⟨hchip, hend, -, -, hint⟩ := hu
      exact ⟨hchip, hend, rfl, rfl, hint⟩

theorem deinitPowerDown_handle (s : State) : (deinitPowerDown s).sat (handleKept s) := by
  have hcommand := proceed_handle (command_handle .pd s)
  unfold deinitPowerDown
  cases hr : (command .pd s).proceed with
  | ok t => rw [hr] at hcommand; exact hcommand
  | stuck => trivial
  | err e t =>
      rw [hr] at hcommand
      exact handleKept_trans hcommand (by simp [handleKept])

theorem hostDeinit_written {s t : State} (h : hostDeinit s = .next t) :
    handleWritten (some (.op .deinit)) s t :=
  gated_written (fun u => handle_chain (handle_chain (deinitPowerDown_handle u)
    fun v => handle_of_quiet (phyDeinit_sat v)) fun v => handle_of_quiet (gpioDeinit_sat v)) .closed h

/-! ## Every outside event, and the step -/

theorem execHost_written {o : HostOp} {s t : State} (h : execHost o s = .next t) :
    handleWritten (some (.op o)) s t := by
  cases o with
  | setType v => exact operation_written (parts := .ok) handleKept_refl (.setType v _) h
  | clrIntDone => exact operation_written (parts := .ok) handleKept_refl (.clrIntDone _) h
  | init => exact hostInit_written h
  | deinit => exact hostDeinit_written h
  | irqHandler => exact hostIrqHandler_written h
  | setVolumeControl => exact hostSetVolumeControl_written h
  | getType | getIntDone => exact handleWritten_of_kept (operation_handle (body := .ok) handleKept_refl h)
  | getVolumeControl => exact handleWritten_of_kept (gated_handle (body := .ok) handleKept_refl h)
  | powerUp | powerDown | stop | reset | clearInterrupt | next | checkMemory | readPlayPointer
  | readRecordPointer | readDeviceId | writeNvConfig | loadNvConfig | toggleExtClock | getStatus
  | readApc | setPlayRange | setRecordRange | setEraseRange | play | record | erase
  | globalErase =>
      simp only [execHost] at h
      exact handleWritten_of_kept (exec_handle h)
  | pollWait => exact handleWritten_of_kept (hostPollWait_handle h)
  | writeApc w =>
      exact handleWritten_of_kept (gated_handle (fun u => apcWriteChecked_handle w u.volSrc _ u) h)
  | setVolume => exact handleWritten_of_kept (hostSetVolume_handle h)
  | setMonitorInput | setMixInput | setSeEditing | setSpiFt | setAnalogOutput | setPwmSpeaker
  | setPuAnalogOutput | setVoltageAlert | setEomStop =>
      exact handleWritten_of_kept (hostFieldSet_handle h)
  | getVolume | getMonitorInput | getMixInput | getSeEditing | getSpiFt | getAnalogOutput
  | getPwmSpeaker | getPuAnalogOutput | getVoltageAlert | getEomStop =>
      exact handleWritten_of_kept (hostFieldGet_handle h)

theorem runInput_written {i : Input} {s t : State} (h : runInput i s = .next t) :
    handleWritten (some i) s t := by
  cases i with
  | frame bytes =>
      simp only [runInput] at h
      split at h
      · exact handleWritten_of_kept (exec_handle h)
      · cases h; exact handleWritten_of_kept (handleKept_refl _)
  | op o => exact execHost_written h
  | straps bindingsOk eventCbPresent => cases h; exact handleWritten_of_kept (handleKept_refl s)
  | engineReset => cases h; exact ⟨_, .engineReset _, handleKept_refl _⟩

/-- A step changes the handle by a write that the event at the head of the list may come to. -/
theorem step_written {s t : State} (h : step s = .next t) : handleWritten s.inputs.head? s t := by
  rcases step_next h with ⟨-, -, rfl⟩ | ⟨i, rest, -, hin, hrun⟩ | ⟨-, rfl⟩
  · exact handleWritten_of_kept (handleKept_refl _)
  · obtain ⟨write, hw, ht⟩ := runInput_written hrun
    have htaken : handleKept s { s with inputs := rest } := handleKept_refl s
    rw [hin, List.head?_cons]
    exact ⟨write, hw, handleKept_trans (hw.congr_handle htaken) ht⟩
  · exact handleWritten_of_kept (handleKept_refl s)

/-! ## The obligation -/

/-- Settles O58: each register's clause is what the one `HandleWrite` of the step can do to it. -/
theorem handleRegistersHaveTheirWriters : Obligations.HandleRegistersHaveTheirWriters := by
  intro s t h
  obtain ⟨write, hw, hchip, hend, hvol, hinit, hint⟩ := step_written h
  rw [hchip, hend, hvol, hinit, hint]
  exact ⟨hw.initialized_rises, hw.initialized_falls, hw.chipVariant_changes, hw.endAddress_changes,
    hw.volSrc_changes, hw.interruptDone_rises, hw.interruptDone_falls⟩

end Sys2Proof.Machine
end

section
/-! Proofs. The wire discipline (R69, R92, R127), an invariant of the step: `Moves` already says that an operation adds
only command frames to the trace, and nothing else reaches it. The end-address ROM (R66). -/

namespace Sys2Proof.Machine

/-! ## What an outside event adds to the trace -/

/-- An outside event runs an operation, or leaves the trace and the parameters as they were. -/
theorem runInput_moves_or_keeps {i : Input} {s t : State} (h : runInput i s = .next t) :
    Moves s t ∨ (t.params = s.params ∧ t.trace = s.trace) := by
  cases i with
  | frame bytes =>
      simp only [runInput] at h
      split at h
      · exact .inl (exec_moves h).1
      · cases h; exact .inr ⟨rfl, rfl⟩
  | op o => exact .inl (execHost_moves h).1
  | straps bindingsOk eventCbPresent => cases h; exact .inr ⟨rfl, rfl⟩
  | engineReset => cases h; exact .inr ⟨rfl, rfl⟩

/-! ## The wire discipline -/

theorem wireDisciplined_iff (s : State) : s.wireDisciplined ↔ commandEvents s.params s.trace := Iff.rfl

/-- The discipline speaks of the parameters and the trace alone. -/
theorem wireDisciplined_of_eq {s t : State} (hparams : t.params = s.params) (htrace : t.trace = s.trace)
    (hs : s.wireDisciplined) : t.wireDisciplined := by
  rwa [wireDisciplined_iff, hparams, htrace]

/-- The frames that a part of an operation adds are commands, at every legal instance. -/
theorem Moves.wireDisciplined {s t : State} (h : Moves s t) (hvalid : s.params.valid = true)
    (hs : s.wireDisciplined) : t.wireDisciplined := by
  obtain ⟨-, -, hparams, -⟩ := h.inst
  obtain ⟨es, htrace, hcommands⟩ := h.trace
  rw [wireDisciplined_iff, hparams, htrace]
  exact commandEvents_append hs (hcommands hvalid)

theorem runInput_wireDisciplined {i : Input} {s t : State} (hvalid : s.params.valid = true)
    (hs : s.wireDisciplined) (h : runInput i s = .next t) : t.wireDisciplined := by
  rcases runInput_moves_or_keeps h with hmoves | ⟨hparams, htrace⟩
  · exact hmoves.wireDisciplined hvalid hs
  · exact wireDisciplined_of_eq hparams htrace hs

/-! ## The codes of the variants -/

theorem variantOfCode_code (v : Variant) : variantOfCode v.code = some v := by
  cases v <;> rfl

/-- Every numbered arm of `variantOfCode` is at most 9. -/
theorem variantOfCode_eq_none {c : VariantCode} (h : 9 < c.toNat) : variantOfCode c = none := by
  unfold variantOfCode
  split
  case h_11 => rfl
  all_goals omega

/-! ## The obligations -/

/-- Settles O57: of the three things a step can be, only an outside event reaches the trace. -/
theorem everyFrameOnTheWireIsACommand : Obligations.EveryFrameOnTheWireIsACommand := by
  intro s t hvalid hs h
  rcases step_next h with ⟨-, -, rfl⟩ | ⟨i, rest, -, -, hrun⟩ | ⟨-, rfl⟩
  · exact hs
  · exact runInput_wireDisciplined (s := { s with inputs := rest }) hvalid hs hrun
  · exact wireDisciplined_of_eq (s := s) rfl rfl hs

/-- Settles O60: the code and the end address are read off row by row, and the variant of a row's code is its own
because `variantOfCode` inverts `Variant.code`. -/
theorem endAddressTable : Obligations.EndAddressTable := by
  intro row hrow
  have hcode : row.1.code = row.2.1 := by fin_cases hrow <;> rfl
  have hend : endAddrOf row.1 = row.2.2 := by fin_cases hrow <;> rfl
  exact ⟨hcode, hend, hcode ▸ variantOfCode_code row.1, fun _ => variantOfCode_eq_none⟩

end Sys2Proof.Machine
end

section
/-! Proofs. The encoding (30_encoding.md): the catalogue of opcodes, the layout of every frame, and the two ways round
between bytes and instructions. Both ways turn on the operands: how a word or an address is split into payload bytes
(`wordPayload`, `addrPayload`) and put together again (`joinBytes`). -/

namespace Sys2Proof.Machine

/-! ## The catalogue of opcodes -/

/-- The 24 opcodes (R90). -/
def opcodes : List Byte :=
  [0x01, 0x02, 0x03, 0x04, 0x05, 0x06, 0x07, 0x08, 0x09, 0x40, 0x41, 0x42, 0x43, 0x44, 0x45, 0x65, 0x46,
    0x47, 0x48, 0x49, 0x4A, 0x80, 0x81, 0x82]

theorem opcodeOf_mem_opcodes (i : Instr) : opcodeOf i ∈ opcodes := by
  cases i <;> simp [opcodeOf, opcodes]

/-- Every numbered arm of `formatOf` is an opcode of the catalogue. -/
theorem mem_opcodes_of_formatOf {op : Byte} {f : FrameFormat} (h : formatOf op = some f) : op ∈ opcodes := by
  unfold formatOf at h
  split at h
  case h_25 => cases h
  all_goals rename_i hop; simp [opcodes, ← BitVec.toNat_inj, hop]

theorem formatOf_eq_none {op : Byte} (h : op ∉ opcodes) : formatOf op = none :=
  Option.eq_none_iff_forall_ne_some.mpr fun _ hf => h (mem_opcodes_of_formatOf hf)

theorem opcodeOf_of_plainOf {op : Byte} {i : Instr} (h : plainOf op = some i) : opcodeOf i = op := by
  unfold plainOf at h
  split at h <;> cases h
  all_goals exact BitVec.eq_of_toNat_eq (Eq.symm ‹_›)

theorem eq_of_writeOf {op : Byte} {w : Word12} {i : Instr} (h : writeOf op w = some i) :
    (op = 0x45 ∧ i = .wrApcBtn w) ∨ (op = 0x65 ∧ i = .wrApcReg w) := by
  unfold writeOf at h
  split at h <;> cases h
  next hop => exact .inl ⟨BitVec.eq_of_toNat_eq hop, rfl⟩
  next hop => exact .inr ⟨BitVec.eq_of_toNat_eq hop, rfl⟩

theorem eq_of_rangeOf {op : Byte} {a b : Addr} {i : Instr} (h : rangeOf op a b = some i) :
    (op = 0x80 ∧ i = .setPlay a b) ∨ (op = 0x81 ∧ i = .setRec a b) ∨ (op = 0x82 ∧ i = .setErase a b) := by
  unfold rangeOf at h
  split at h <;> cases h
  next hop => exact .inl ⟨BitVec.eq_of_toNat_eq hop, rfl⟩
  next hop => exact .inr (.inl ⟨BitVec.eq_of_toNat_eq hop, rfl⟩)
  next hop => exact .inr (.inr ⟨BitVec.eq_of_toNat_eq hop, rfl⟩)

/-! ## The layout of the frames -/

/-- Whatever the parameters, legal or not, a frame begins with its row's opcode. -/
theorem encodeWith_eq_opcodeOf_cons (p : Params) (i : Instr) : ∃ payload, encodeWith p i = opcodeOf i :: payload := by
  cases i <;> exact ⟨_, rfl⟩

/-- A frame without operands: its opcode, then `PAD` up to the length of its format (R81 to R85). -/
theorem padTo_singleton (p : Params) (n : Nat) (op : Byte) :
    padTo p n [op] = op :: List.replicate (n - 1) p.pad := rfl

/-- The two branches on `L_RNG` are the two of `rangePad`; this holds below the least legal length too. -/
theorem rangeFrame_eq_rngFrame (p : Params) (op : Byte) (start last : Addr) :
    rangeFrame p op start last = rngFrame p op start last := by
  unfold rangeFrame rngFrame rangePad
  split
  next hmin => simp [padTo, addrPayload, hmin]
  next => simp [padTo, addrPayload]

/-! ## Splitting and joining the operands -/

theorem toNat_joinBytes (lo hi : Byte) : (joinBytes lo hi).toNat = 256 * hi.toNat + lo.toNat := by
  have hhi : (hi.setWidth 16 <<< 8).toNat = hi.toNat <<< 8 := by
    rw [BitVec.toNat_shiftLeft, BitVec.toNat_setWidth, Nat.shiftLeft_eq, Nat.shiftLeft_eq]
    omega
  have hlo : (lo.setWidth 16).toNat = lo.toNat := BitVec.toNat_setWidth_of_le (by decide)
  rw [joinBytes, BitVec.toNat_or, hhi, hlo, ← Nat.shiftLeft_add_eq_or_of_lt lo.isLt, Nat.shiftLeft_eq,
    Nat.mul_comm]

theorem toNat_and_0x0F (b : Byte) : (b &&& 0x0F#8).toNat = b.toNat % 16 := Nat.and_two_pow_sub_one_eq_mod b.toNat 4

theorem toNat_and_0x07 (b : Byte) : (b &&& 0x07#8).toNat = b.toNat % 8 := Nat.and_two_pow_sub_one_eq_mod b.toNat 3

/-- A byte with no bit outside a mask is its own masked value. -/
theorem and_eq_self_of_and_not {b m : Byte} (h : b &&& ~~~m = 0) : b &&& m = b := by
  calc b &&& m = (b &&& m) ||| (b &&& ~~~m) := by simp [h]
    _ = b := by rw [← BitVec.and_or_distrib_left, BitVec.or_not_self, BitVec.and_allOnes]

theorem lt_16_of_and_0xF0 {b : Byte} (h : b &&& 0xF0#8 = 0) : b.toNat < 16 := by
  rw [← and_eq_self_of_and_not (m := 0x0F#8) h, toNat_and_0x0F]
  omega

theorem lt_8_of_and_0xF8 {b : Byte} (h : b &&& 0xF8#8 = 0) : b.toNat < 8 := by
  rw [← and_eq_self_of_and_not (m := 0x07#8) h, toNat_and_0x07]
  omega

theorem fits11_iff (a : Addr) : fits11 a = true ↔ a.toNat < 2048 := by
  simp [fits11, BitVec.lt_def]

/-- The high byte of an address or a word, as its payload carries it before the mask. -/
theorem toNat_highByte {n : Nat} (a : BitVec n) : ((a >>> 8).setWidth 8).toNat = a.toNat / 256 % 256 := by
  simp [Nat.shiftRight_eq_div_pow]

theorem joinBytes_word (w : Word12) :
    (joinBytes (w.setWidth 8) ((w >>> 8).setWidth 8 &&& 0x0F#8)).setWidth 12 = w := by
  apply BitVec.eq_of_toNat_eq
  rw [BitVec.toNat_setWidth, toNat_joinBytes, toNat_and_0x0F, toNat_highByte, BitVec.toNat_setWidth]
  omega

theorem joinBytes_addr {a : Addr} (h : fits11 a = true) :
    joinBytes (a.setWidth 8) ((a >>> 8).setWidth 8 &&& 0x07#8) = a := by
  rw [fits11_iff] at h
  apply BitVec.eq_of_toNat_eq
  rw [toNat_joinBytes, toNat_and_0x07, toNat_highByte, BitVec.toNat_setWidth]
  omega

theorem wordPayload_joinBytes {lo hi : Byte} (h : hi &&& 0xF0#8 = 0) :
    wordPayload ((joinBytes lo hi).setWidth 12) = [lo, hi] := by
  have hhi := lt_16_of_and_0xF0 h
  have hlow : (((joinBytes lo hi).setWidth 12).setWidth 8 : Byte) = lo := by
    apply BitVec.eq_of_toNat_eq
    rw [BitVec.toNat_setWidth, BitVec.toNat_setWidth, toNat_joinBytes]
    omega
  have hhigh : ((((joinBytes lo hi).setWidth 12 : Word12) >>> 8).setWidth 8 &&& 0x0F#8 : Byte) = hi := by
    apply BitVec.eq_of_toNat_eq
    rw [toNat_and_0x0F, toNat_highByte, BitVec.toNat_setWidth, toNat_joinBytes]
    omega
  rw [wordPayload, hlow, hhigh]

theorem addrPayload_joinBytes {lo hi : Byte} (h : hi &&& 0xF8#8 = 0) :
    addrPayload (joinBytes lo hi) = [lo, hi] := by
  have hhi := lt_8_of_and_0xF8 h
  have hlow : ((joinBytes lo hi).setWidth 8 : Byte) = lo := by
    apply BitVec.eq_of_toNat_eq
    rw [BitVec.toNat_setWidth, toNat_joinBytes]
    omega
  have hhigh : ((joinBytes lo hi >>> 8).setWidth 8 &&& 0x07#8 : Byte) = hi := by
    apply BitVec.eq_of_toNat_eq
    rw [toNat_and_0x07, toNat_highByte, toNat_joinBytes]
    omega
  rw [addrPayload, hlow, hhigh]

theorem fits11_joinBytes {lo hi : Byte} (h : hi &&& 0xF8#8 = 0) : fits11 (joinBytes lo hi) = true := by
  have hhi := lt_8_of_and_0xF8 h
  rw [fits11_iff, toNat_joinBytes]
  omega

/-! ## The decoder -/

theorem decode_cons_of_formatOf_eq_none {op : Byte} (h : formatOf op = none) (rest : List Byte) :
    decode (op :: rest) = .error (.notACommand op) := by
  simp [decode, decodePrefix, h]

/-- What decodes as a whole frame is an opcode and a body that decodes: nothing is left over, so the body is all the
bytes after the opcode. -/
theorem decode_ok {bytes : List Byte} {i : Instr} (h : decode bytes = .ok i) :
    ∃ op body, bytes = op :: body ∧ decodeBody op body = .ok i := by
  cases bytes with
  | nil => simp [decode, decodePrefix] at h
  | cons op body =>
      cases hf : formatOf op with
      | none => simp [decode_cons_of_formatOf_eq_none hf] at h
      | some f =>
          refine ⟨op, body, rfl, ?_⟩
          cases hbody : decodeBody op (body.take (f.tableLength - 1)) with
          | error e => simp [decode, decodePrefix, hf, hbody] at h
          | ok j =>
              cases hrest : body.drop (f.tableLength - 1) with
              | cons b rest => simp [decode, decodePrefix, hf, hbody, hrest] at h
              | nil =>
                  simp only [decode, decodePrefix, hf, hbody, hrest, Except.ok.injEq] at h
                  rw [List.take_of_length_le (List.drop_eq_nil_iff.mp hrest), h] at hbody
                  exact hbody

/-- A body as long as its opcode's format, with nothing after it, decodes as a whole frame. -/
theorem decode_of_decodeBody {op : Byte} {f : FrameFormat} {body : List Byte} {i : Instr}
    (hf : formatOf op = some f) (hlength : body.length = f.tableLength - 1) (hbody : decodeBody op body = .ok i) :
    decode (op :: body) = .ok i := by
  simp [decode, decodePrefix, hf, ← hlength, hbody]

theorem decode_word {op : Byte} {w : Word12} {i : Instr} (hf : formatOf op = some .fWr3)
    (hi : writeOf op w = some i) : decode (op :: wordPayload w) = .ok i := by
  have hhigh (b : Byte) : (b &&& 0x0F#8) &&& 0xF0#8 = 0 := by rw [BitVec.and_assoc]; exact BitVec.and_zero
  refine decode_of_decodeBody hf rfl ?_
  simp [decodeBody, hf, wordPayload, hhigh, joinBytes_word, hi]

theorem decode_range {op : Byte} {start last : Addr} {i : Instr} (hf : formatOf op = some .fRng)
    (hi : rangeOf op start last = some i) (hstart : fits11 start = true) (hlast : fits11 last = true) :
    decode (op :: 0 :: (addrPayload start ++ addrPayload last ++ [0])) = .ok i := by
  have hhigh (b : Byte) : (b &&& 0x07#8) &&& 0xF8#8 = 0 := by rw [BitVec.and_assoc]; exact BitVec.and_zero
  refine decode_of_decodeBody hf rfl ?_
  simp [decodeBody, hf, addrPayload, hhigh, joinBytes_addr, hstart, hlast, hi]

/-- The frames that the decoder accepts, opcode first: no operand, a word, or two addresses. -/
inductive Accepted : List Byte → Instr → Prop
  | plain {op : Byte} {f : FrameFormat} {i : Instr} (hf : formatOf op = some f) (hi : plainOf op = some i) :
      Accepted (op :: List.replicate (f.tableLength - 1) 0) i
  | word {op : Byte} {w : Word12} {i : Instr} (hi : writeOf op w = some i) : Accepted (op :: wordPayload w) i
  | range {op : Byte} {start last : Addr} {i : Instr} (hi : rangeOf op start last = some i)
      (hstart : fits11 start = true) (hlast : fits11 last = true) :
      Accepted (op :: 0 :: (addrPayload start ++ addrPayload last ++ [0])) i

theorem elim_eq_ok {o : Option Instr} {e : FrameReject} {i : Instr}
    (h : o.elim (Except.error e) Except.ok = .ok i) : o = some i := by
  cases o <;> cases h
  rfl

/-- Every arm of `decodeBody` that answers an instruction has checked the fixed bits that make its bytes a payload. -/
theorem accepted_of_decodeBody {op : Byte} {body : List Byte} {i : Instr} (h : decodeBody op body = .ok i) :
    Accepted (op :: body) i := by
  unfold decodeBody at h
  split at h
  case h_1 p1 hf =>
      split at h
      next hpad => subst hpad; exact .plain hf (elim_eq_ok h)
      next => cases h
  case h_2 p1 p2 hf =>
      split at h
      next hpad => obtain ⟨rfl, rfl⟩ := hpad; exact .plain hf (elim_eq_ok h)
      next => cases h
  case h_3 p1 p2 p3 hf =>
      split at h
      next hpad => obtain ⟨rfl, rfl, rfl⟩ := hpad; exact .plain hf (elim_eq_ok h)
      next => cases h
  case h_4 lo hi hf =>
      split at h
      next hhi => exact wordPayload_joinBytes hhi ▸ .word (elim_eq_ok h)
      next => cases h
  case h_5 p1 sLo sHi eLo eHi p6 hf =>
      split at h
      next hfixed =>
          obtain ⟨rfl, rfl, hs, he⟩ := hfixed
          have hframe := Accepted.range (elim_eq_ok h) (fits11_joinBytes hs) (fits11_joinBytes he)
          rwa [addrPayload_joinBytes hs, addrPayload_joinBytes he] at hframe
      next => cases h
  all_goals cases h

/-- The frame of a row without operands is its opcode and zero padding, at the default parameters. -/
theorem encode_of_plainOf {op : Byte} {f : FrameFormat} {i : Instr} (hf : formatOf op = some f)
    (hi : plainOf op = some i) :
    encode i = op :: List.replicate (f.tableLength - 1) 0 ∧ i.wellFormed = true := by
  obtain rfl := opcodeOf_of_plainOf hi
  cases i with
  | wrApcBtn | wrApcReg | setPlay | setRec | setErase => cases hi
  | _ => cases hf; exact ⟨rfl, rfl⟩

/-- What the decoder accepts is what the encoder writes. -/
theorem Accepted.encode_eq {bytes : List Byte} {i : Instr} (h : Accepted bytes i) :
    encode i = bytes ∧ i.wellFormed = true := by
  cases h with
  | plain hf hi => exact encode_of_plainOf hf hi
  | word hi => rcases eq_of_writeOf hi with ⟨rfl, rfl⟩ | ⟨rfl, rfl⟩ <;> exact ⟨rfl, rfl⟩
  | range hi hstart hlast =>
      have hfits := Bool.and_eq_true_iff.mpr ⟨hstart, hlast⟩
      rcases eq_of_rangeOf hi with ⟨rfl, rfl⟩ | ⟨rfl, rfl⟩ | ⟨rfl, rfl⟩ <;> exact ⟨rfl, hfits⟩

/-! ## The obligations -/

/-- Settles O4. A row without operands has one frame, which evaluates; a word and two addresses below 0x800 come back
from their payload. -/
theorem decodeOfEncodeIsTheInstruction : Obligations.DecodeOfEncodeIsTheInstruction := by
  intro i hwf
  cases i with
  | wrApcBtn w | wrApcReg w => exact decode_word rfl rfl
  | setPlay start last | setRec start last | setErase start last =>
      obtain ⟨hstart, hlast⟩ := Bool.and_eq_true_iff.mp hwf
      exact decode_range rfl rfl hstart hlast
  | _ => rfl

/-- Settles O5: the decoder answers an instruction only for the frames of `Accepted`. -/
theorem decodedBytesAreTheEncoding : Obligations.DecodedBytesAreTheEncoding := by
  intro bytes i h
  obtain ⟨op, body, rfl, hbody⟩ := decode_ok h
  exact (accepted_of_decodeBody hbody).encode_eq

/-- Settles O6: `formatOf` knows the opcodes of the catalogue alone, and every frame begins with its row's. -/
theorem otherOpcodesAreNotCommands : Obligations.OtherOpcodesAreNotCommands := by
  refine ⟨fun op rest hop => decode_cons_of_formatOf_eq_none (formatOf_eq_none hop) rest, fun p i => ?_⟩
  obtain ⟨payload, hframe⟩ := encodeWith_eq_opcodeOf_cons p i
  exact ⟨opcodeOf i, payload, hframe, opcodeOf_mem_opcodes i⟩

/-- Settles O1: a frame's first byte is its row's opcode, and the two columns of the table are read off row by row. -/
theorem opcodeCatalogueIsExact : Obligations.OpcodeCatalogueIsExact := by
  intro w a b row hrow
  have hopcode : opcodeOf row.1 = row.2.1 := by fin_cases hrow <;> rfl
  have hwire : bitrev8 row.2.1 = row.2.2 := by fin_cases hrow <;> dsimp only <;> decide
  obtain ⟨payload, hframe⟩ := encodeWith_eq_opcodeOf_cons Params.default row.1
  simp [encode, hframe, hopcode, hwire]

/-- Settles O7, each word by evaluation of the decoder. -/
theorem sampleWordsDecode : Obligations.SampleWordsDecode := ⟨rfl, rfl, rfl, rfl, rfl⟩

/-- Settles O8: padding makes the short frames, `rangeFrame_eq_rngFrame` the range frames. -/
theorem frameLayoutsFollowTheirFormat : Obligations.FrameLayoutsFollowTheirFormat := by
  intro p _
  refine ⟨fun row hrow => ?_, padTo_singleton .., padTo_singleton .., padTo_singleton .., padTo_singleton ..,
    padTo_singleton .., fun w => ⟨rfl, rfl⟩, fun a b => ?_⟩
  · fin_cases hrow <;> exact padTo_singleton ..
  · exact ⟨rangeFrame_eq_rngFrame .., rangeFrame_eq_rngFrame .., rangeFrame_eq_rngFrame ..⟩

/-- Settles O11: bytes that do not decode leave `runInput` with the engine as it was. -/
theorem unknownSelectorChangesNothing : Obligations.UnknownSelectorChangesNothing := by
  intro s bytes rest e hseq hin hdecode
  rw [step_of_input hseq hin]
  simp only [runInput, hdecode]

end Sys2Proof.Machine
end

section
/-! Proofs. The transceiver (40_transceiver.md): the bit reversal, one exchange, the delay. Bit `i` of a reversed byte
(`getLsbD_bitrev8`) is what every law of the reversal turns on; the exchange is read off the two states of `xfer_eq`. -/

namespace Sys2Proof.Machine

/-! ## The bits of a reversed byte -/

theorem getLsbD_bitrev8 (b : Byte) {i : Nat} (h : i < 8) : (bitrev8 b).getLsbD i = b.getLsbD (7 - i) := by
  rw [bitrev8, BitVec.getLsbD_reverse, BitVec.getMsbD, decide_eq_true h, Bool.true_and]

theorem bitrev8_or (a b : Byte) : bitrev8 (a ||| b) = bitrev8 a ||| bitrev8 b := by
  apply BitVec.eq_of_getLsbD_eq
  intro i h
  simp [getLsbD_bitrev8 _ h]

/-- What a right shift drops at bit 0 is what the left shift of the image drops at bit 7. -/
theorem bitrev8_ushiftRight (a : Byte) (n : Nat) : bitrev8 (a >>> n) = bitrev8 a <<< n := by
  apply BitVec.eq_of_getLsbD_eq
  intro i h
  rw [getLsbD_bitrev8 _ h, BitVec.getLsbD_ushiftRight, BitVec.getLsbD_shiftLeft]
  by_cases hin : i < n
  · have hout : a.getLsbD (n + (7 - i)) = false := BitVec.getLsbD_of_ge _ _ (by omega)
    simp [hin, hout]
  · have hindex : n + (7 - i) = 7 - (i - n) := by omega
    have hlt : i - n < 8 := by omega
    simp [hin, h, getLsbD_bitrev8 _ hlt, hindex]

/-- The closed form: each mask picks one bit and each shift moves it to the mirrored place. -/
theorem bitrev8_eq_masks (b : Byte) :
    bitrev8 b = (b &&& 0x01) <<< 7 ||| (b &&& 0x02) <<< 5 ||| (b &&& 0x04) <<< 3 ||| (b &&& 0x08) <<< 1
      ||| (b &&& 0x10) >>> 1 ||| (b &&& 0x20) >>> 3 ||| (b &&& 0x40) >>> 5 ||| (b &&& 0x80) >>> 7 := by
  apply BitVec.eq_of_getLsbD_eq
  intro i h
  rw [getLsbD_bitrev8 b h]
  interval_cases i <;> simp

/-! ## The palindromes -/

/-- The byte that reads `n` from bit 0 upward and from bit 7 downward. -/
def palindrome (n : BitVec 4) : Byte := n.reverse ++ n

theorem getLsbD_palindrome (n : BitVec 4) {i : Nat} (h : i < 8) :
    (palindrome n).getLsbD i = n.getLsbD (min i (7 - i)) := by
  rw [palindrome, BitVec.getLsbD_append, BitVec.getLsbD_reverse, BitVec.getMsbD]
  split
  next => rw [Nat.min_eq_left (by omega)]
  next =>
    have hindex : 4 - 1 - (i - 4) = 7 - i := by omega
    rw [decide_eq_true (by omega), Bool.true_and, hindex, Nat.min_eq_right (by omega)]

/-- A byte that equals its image is fixed by its low half. -/
theorem eq_palindrome_of_bitrev8_eq_self {b : Byte} (hb : bitrev8 b = b) : b = palindrome (b.setWidth 4) := by
  apply BitVec.eq_of_getLsbD_eq
  intro i h
  rw [getLsbD_palindrome _ h, BitVec.getLsbD_setWidth, decide_eq_true (by omega), Bool.true_and]
  rcases Nat.lt_or_ge i 4 with hlow | hhigh
  · rw [Nat.min_eq_left (by omega)]
  · rw [Nat.min_eq_right (by omega), ← getLsbD_bitrev8 b h, hb]

/-- The sixteen palindromes (R120), one for each low half. -/
def palindromes : List Byte :=
  [0x00, 0x18, 0x24, 0x3C, 0x42, 0x5A, 0x66, 0x7E, 0x81, 0x99, 0xA5, 0xBD, 0xC3, 0xDB, 0xE7, 0xFF]

theorem palindrome_mem_palindromes : ∀ n, palindrome n ∈ palindromes := by decide

theorem bitrev8_of_mem_palindromes : ∀ b ∈ palindromes, bitrev8 b = b := by decide

theorem bitrev8_eq_self_iff (b : Byte) : bitrev8 b = b ↔ b ∈ palindromes := by
  refine ⟨fun h => ?_, bitrev8_of_mem_palindromes b⟩
  rw [eq_palindrome_of_bitrev8_eq_self h]
  exact palindrome_mem_palindromes _

/-! ## One exchange -/

/-- `TXBUF` after `XFER`, whether the frame was taken or not: written below the length only. -/
theorem overlay_frame_getElem (tx : List Byte) (old : FrameBuffer) (i : Fin 7) :
    (overlay tx.length tx old)[i] = if i.val < tx.length then tx.getD i.val 0 else old[i] :=
  overlay_getElem tx.length tx old i.val i.isLt

/-- `RXBUF` after a successful `XFER`: written below the length only. -/
theorem exchanged_rxbuf_getElem (s : State) {tx : List Byte} (hl : tx.length ≤ 7) (i : Fin 7) :
    (s.exchanged tx).rxbuf[i] = if i.val < tx.length then s.rxAt 0 i else s.rxbuf[i] := by
  split
  next h => exact exchanged_rxbuf s hl i h
  next h =>
    simp only [State.exchanged, toNat_length hl]
    rw [Fin.getElem_fin, overlay_getElem _ _ _ _ i.isLt, if_neg h]
    rfl

theorem exchanged_commandFrame (s : State) (tx : List Byte) : commandFrame s (s.exchanged tx) := by
  simp [commandFrame, handleKept, statusKept, instanceKept]

theorem exchangeFailed_commandFrame (s : State) (tx : List Byte) : commandFrame s (s.exchangeFailed tx) := by
  simp [commandFrame, handleKept, statusKept, instanceKept]

theorem xfer_failed (s : State) {tx : List Byte} (hh : s.hang = none) (hl : tx.length ≤ 7)
    (ha : (s.answerAt 0).ok = false) :
    xfer tx s = .err .communicationFailure (s.exchangeFailed tx) := by
  rw [xfer_eq s hh hl, ha]; rfl

/-! ## One delay -/

/-- All that `DELAY(ms)` can come to when the port call returns (R125). -/
theorem delay_eq {s : State} (hh : s.hang = none) (ms : Nat) :
    delay ms s = .ok { s with trace := s.trace ++ delayEvents ms } := by
  unfold delay delayEvents
  split
  next => simp
  next => rw [portReturns_none hh]; rfl

/-! ## The obligations -/

/-- Settles O14: both outcomes of `XFER` are the states that `xfer_eq` names. -/
theorem exchangeFollowsItsPseudocode : Obligations.ExchangeFollowsItsPseudocode := by
  intro s tx _ hl hh
  constructor
  · intro ha
    exact ⟨s.exchanged tx, xfer_ok s hh hl ha, toNat_length hl, overlay_frame_getElem tx s.txbuf,
      exchanged_rxbuf_getElem s hl, exchanged_trace s tx, exchanged_commandFrame s tx, exchanged_seq s tx,
      exchanged_result s tx, exchanged_rdata s tx⟩
  · intro ha
    exact ⟨s.exchangeFailed tx, xfer_failed s hh hl ha, toNat_length hl, overlay_frame_getElem tx s.txbuf,
      exchangeFailed_rxbuf s tx, exchangeFailed_trace s tx, exchangeFailed_commandFrame s tx,
      exchangeFailed_seq s tx, exchangeFailed_result s tx, exchangeFailed_rdata s tx⟩

/-- Settles O2: the closed form and the palindromes follow from the bit law. -/
theorem bitReversalMirrorsEachBit : Obligations.BitReversalMirrorsEachBit :=
  ⟨fun b _ h => getLsbD_bitrev8 b h, bitrev8_eq_masks, bitrev8_eq_self_iff, rfl⟩

/-- Settles O3: the laws of the or and the shift follow from the bit law, injectivity from the involution. -/
theorem bitReversalIsAnInvolution : Obligations.BitReversalIsAnInvolution :=
  ⟨bitrev8_bitrev8, fun _ _ => bitrev8_injective, bitrev8_or, bitrev8_ushiftRight⟩

/-- Settles O15, by `delay_eq`. -/
theorem delayAddsOneEventUnlessZero : Obligations.DelayAddsOneEventUnlessZero :=
  fun _ ms hh => delay_eq hh ms

end Sys2Proof.Machine
end

section
/-! Proofs. Status and polling (41_status_polling.md). `Advance` says where a part of an operation has come to, counted
in port calls from the operation's start, so that every sample of a wait is read off the answers of that start. The
parts (`statusRead_ok_at`, `statusRead_failed_at`, `pollLoop_waits`, `checkPoll_ends_at_sample`,
`checkPoll_breaks_at_sample`, `checkPoll_expires`) are stated for a wait that begins at any port call; POLL_WAIT begins
its own at call 0. The bound that holds whatever the ports answer is an induction of its own, over the counter. -/

namespace Sys2Proof.Machine

/-! ## How far a part of an operation has come -/

/-- The state after `DELAY(ms)` (R125). -/
def State.afterDelay (s : State) (ms : Nat) : State := { s with trace := s.trace ++ delayEvents ms }

theorem delay_returns {s : State} (hh : s.hang = none) (ms : Nat) : delay ms s = .ok (s.afterDelay ms) :=
  delay_eq hh ms

@[simp] theorem afterDelay_status1 (s : State) (ms : Nat) : (s.afterDelay ms).status1 = s.status1 := rfl
@[simp] theorem afterDelay_status2 (s : State) (ms : Nat) : (s.afterDelay ms).status2 = s.status2 := rfl
@[simp] theorem afterDelay_timeoutCnt (s : State) (ms : Nat) : (s.afterDelay ms).timeoutCnt = s.timeoutCnt := rfl
@[simp] theorem afterDelay_params (s : State) (ms : Nat) : (s.afterDelay ms).params = s.params := rfl

/-- `t` is `s` after `n` answered port calls with the events `es`. Only the latches, the frame buffers, the timeout
counter, the sequencer and the result are left open. -/
structure Advance (s : State) (n : Nat) (es : List Event) (t : State) : Prop where
  handle : handleKept s t
  inst : instanceKept s t
  apcTmp : t.apcTmp = s.apcTmp
  hang : t.hang = s.hang
  trace : t.trace = s.trace ++ es
  answers : ∀ k, t.answerAt k = s.answerAt (n + k)

namespace Advance

theorem trans {s t u : State} {n m : Nat} {es fs : List Event} (h : Advance s n es t)
    (k : Advance t m fs u) : Advance s (n + m) (es ++ fs) u where
  handle := handleKept_trans h.handle k.handle
  inst := instanceKept_trans h.inst k.inst
  apcTmp := k.apcTmp.trans h.apcTmp
  hang := k.hang.trans h.hang
  trace := by rw [k.trace, h.trace, List.append_assoc]
  answers j := by rw [k.answers, h.answers, Nat.add_assoc]

/-- No port call, no event. -/
theorem trans_zero {s t u : State} {n : Nat} {es : List Event} (h : Advance s n es t)
    (k : Advance t 0 [] u) : Advance s n es u := by
  simpa using h.trans k

theorem setSeq (s : State) (q : SeqState) : Advance s 0 [] (s.setSeq q) :=
  ⟨by simp [handleKept], by simp [instanceKept], rfl, rfl, by simp, by simp⟩

theorem setTimeoutCnt (s : State) (n : Nat) : Advance s 0 [] (s.setTimeoutCnt n) :=
  ⟨by simp [handleKept], by simp [instanceKept], rfl, rfl, by simp, by simp⟩

theorem latchStatus (s : State) : Advance s 0 [] s.latchStatus :=
  ⟨by simp [handleKept], by simp [instanceKept], rfl, rfl, by simp, by simp⟩

theorem exchanged (s : State) (tx : List Byte) : Advance s 1 [s.xferAt 0 tx] (s.exchanged tx) :=
  ⟨by simp [handleKept], by simp [instanceKept], by simp, by simp, by simp, by simp [Nat.add_comm]⟩

theorem exchangeFailed (s : State) (tx : List Byte) :
    Advance s 1 [.xferFail (tx.map bitrev8)] (s.exchangeFailed tx) :=
  ⟨by simp [handleKept], by simp [instanceKept], by simp, by simp, by simp, by simp [Nat.add_comm]⟩

theorem afterDelay (s : State) (ms : Nat) : Advance s 0 (delayEvents ms) (s.afterDelay ms) :=
  ⟨handleKept_refl s, instanceKept_refl s, rfl, rfl, rfl, fun k => by rw [Nat.zero_add]; rfl⟩

section
variable {s t : State} {n : Nat} {es : List Event} (h : Advance s n es t)
include h

theorem params : t.params = s.params := h.inst.2.2.1

/-! What the answers to come hold is what they held from the start. -/

theorem rxAt (k : Nat) (i : Fin 7) : t.rxAt k i = s.rxAt (n + k) i := by
  simp [State.rxAt, h.answers]

theorem status1At (k : Nat) : t.status1At k = s.status1At (n + k) := by
  simp [State.status1At, h.rxAt]

theorem status2At (k : Nat) : t.status2At k = s.status2At (n + k) := by
  simp [State.status2At, h.rxAt]

theorem irqAt (k : Nat) : t.irqAt k = s.irqAt (n + k) := by
  simp [State.irqAt, h.status1At, h.params]

theorem xferAt (k : Nat) (frame : List Byte) : t.xferAt k frame = s.xferAt (n + k) frame := by
  simp [State.xferAt, h.answers]

theorem statusEvents (k settle : Nat) : t.statusEvents k settle = s.statusEvents (n + k) settle := by
  simp [State.statusEvents, h.irqAt, h.xferAt, h.params, Nat.add_assoc]

theorem failedReadEvents (k : Nat) : t.failedReadEvents k = s.failedReadEvents (n + k) := by
  simp [State.failedReadEvents, h.answers, h.xferAt, h.params]

end

end Advance

/-- The latches hold what the status frame at port call `k` delivers (R142). -/
def latched (s t : State) (k : Nat) : Prop := t.status1 = s.status1At k ∧ t.status2 = s.status2At k

/-! ## The status read -/

/-- The state after a status frame that succeeded: its bytes are on the latches (R140). -/
def State.sampled (s : State) : State := (s.exchanged (rd3Frame s.params 0x05)).latchStatus

theorem sampled_advance (s : State) :
    Advance s 1 [s.xferAt 0 (rd3Frame s.params 0x05)] s.sampled :=
  (Advance.exchanged s _).trans_zero (Advance.latchStatus _)

@[simp] theorem sampled_timeoutCnt (s : State) : s.sampled.timeoutCnt = s.timeoutCnt := by
  simp [State.sampled]

theorem sampled_latched {s : State} (hp : s.params.valid = true) : latched s s.sampled 0 := by
  obtain ⟨hlo, hhi⟩ := lRd3_bounds hp
  have hlen := length_rd3Frame s.params hp 0x05
  have hrx : ∀ i : Fin 7, i.val < 3 → (s.exchanged (rd3Frame s.params 0x05)).rxbuf[i] = s.rxAt 0 i :=
    fun i hi => exchanged_rxbuf s (by omega) i (by omega)
  exact ⟨congrArg₂ (· ++ ·) (hrx 1 (by decide)) (hrx 0 (by decide)), hrx 2 (by decide)⟩

theorem irqPending_of_latched {s t : State} {k : Nat} (h : latched s t k) (hparams : t.params = s.params) :
    t.irqPending = s.irqAt k := by
  simp [State.irqPending, State.eom, State.int, State.irqAt, h.1, hparams]

theorem cmdErr_of_latched {s t : State} {k : Nat} (h : latched s t k) : t.cmdErr = s.cmdErrAt k := by
  simp [State.cmdErr, State.cmdErrAt, h.1]

/-- All that `STATUS_READ` can come to when its port calls return (R142). -/
theorem statusRead_eq {s : State} (hh : s.hang = none) (hp : s.params.valid = true) (settle : Nat) :
    statusRead settle s =
      if (s.answerAt 0).ok then
        if s.irqAt 0 then
          if (s.answerAt 1).ok then
            delay settle (s.sampled.exchanged (cmdFrame s.params 0x04))
          else .err .communicationFailure (s.sampled.exchangeFailed (cmdFrame s.params 0x04))
        else .ok s.sampled
      else .err .communicationFailure (s.exchangeFailed (rd3Frame s.params 0x05)) := by
  have hadv := sampled_advance s
  have hirq : s.sampled.irqPending = s.irqAt 0 := irqPending_of_latched (sampled_latched hp) hadv.params
  have hhang : s.sampled.hang = none := hadv.hang.trans hh
  have hvalid : s.sampled.params.valid = true := hadv.params ▸ hp
  have hanswer : s.sampled.answerAt 0 = s.answerAt 1 := hadv.answers 0
  have hframe : encodeWith s.sampled.params .clrInt = cmdFrame s.params 0x04 := by rw [hadv.params]; rfl
  cases ha : (s.answerAt 0).ok with
  | false => simp only [statusRead, sendFrame_failed s _ hh hp ha]; rfl
  | true =>
      have hread : statusRead settle s = if s.sampled.irqPending then
          (sendFrame .clrInt s.sampled).andThen (delay settle) else .ok s.sampled := by
        rw [statusRead, sendFrame_ok s _ hh hp ha]; rfl
      rw [hread, hirq, if_pos rfl]
      congr 1
      cases hc : (s.answerAt 1).ok with
      | false => rw [sendFrame_failed _ _ hhang hvalid (hanswer ▸ hc), hframe]; rfl
      | true => rw [sendFrame_ok _ _ hhang hvalid (hanswer ▸ hc), hframe]; rfl

/-- A status read whose frames succeed (R142). -/
theorem statusRead_ok {s : State} (hh : s.hang = none) (hp : s.params.valid = true) (settle : Nat)
    (hread : (s.answerAt 0).ok = true) (hclear : s.irqAt 0 = true → (s.answerAt 1).ok = true) :
    ∃ t, statusRead settle s = .ok t ∧ Advance s (if s.irqAt 0 then 2 else 1) (s.statusEvents 0 settle) t
      ∧ latched s t 0 ∧ t.timeoutCnt = s.timeoutCnt := by
  have hadv := sampled_advance s
  rw [statusRead_eq hh hp, if_pos hread]
  cases hirq : s.irqAt 0 with
  | false =>
      exact ⟨s.sampled, rfl, by simpa [State.statusEvents, hirq] using hadv, sampled_latched hp, by simp⟩
  | true =>
      have hcleared := hadv.trans (Advance.exchanged s.sampled (cmdFrame s.params 0x04))
      rw [if_pos rfl, if_pos (hclear hirq), delay_returns (hcleared.hang.trans hh)]
      refine ⟨_, rfl, ?_, ?_, by simp⟩
      · simpa [State.statusEvents, hirq, hadv.xferAt] using hcleared.trans (Advance.afterDelay _ settle)
      · simpa [latched] using sampled_latched hp

/-- A status read of which a frame fails: the latches are new exactly if it was the second (R142). -/
theorem statusRead_failed {s : State} (hh : s.hang = none) (hp : s.params.valid = true) (settle : Nat)
    (hfails : s.readFails 0) :
    ∃ t, statusRead settle s = .err .communicationFailure t
      ∧ Advance s (if (s.answerAt 0).ok then 2 else 1) (s.failedReadEvents 0) t
      ∧ (if (s.answerAt 0).ok then latched s t 0 else statusKept s t) ∧ t.timeoutCnt = s.timeoutCnt := by
  rw [statusRead_eq hh hp]
  obtain hread | ⟨hread, hirq, hclear⟩ := hfails
  · refine ⟨s.exchangeFailed (rd3Frame s.params 0x05), by simp [hread], ?_, by simp [hread, statusKept], by simp⟩
    simpa [State.failedReadEvents, hread] using Advance.exchangeFailed s (rd3Frame s.params 0x05)
  · refine ⟨s.sampled.exchangeFailed (cmdFrame s.params 0x04), by simp [hread, hirq, hclear], ?_, ?_, by simp⟩
    · simpa [State.failedReadEvents, hread] using
        (sampled_advance s).trans (Advance.exchangeFailed s.sampled (cmdFrame s.params 0x04))
    · simpa [hread, latched] using sampled_latched hp

/-! ## One sample of a wait -/

section
variable {s t : State} {n : Nat} {es : List Event}

/-- The status read at port call `n` of an operation, from the state the operation has come to there. -/
theorem statusRead_ok_at (h : Advance s n es t) (hh : s.hang = none) (hp : s.params.valid = true) (settle : Nat)
    (hread : (s.answerAt n).ok = true) (hclear : s.irqAt n = true → (s.answerAt (n + 1)).ok = true) :
    ∃ u, statusRead settle t = .ok u
      ∧ Advance s (n + if s.irqAt n then 2 else 1) (es ++ s.statusEvents n settle) u
      ∧ latched s u n ∧ u.timeoutCnt = t.timeoutCnt := by
  obtain ⟨u, hu, hadv, hlatched, hcnt⟩ := statusRead_ok (h.hang.trans hh) (h.params ▸ hp) settle
    (by simpa [h.answers] using hread) (by simpa [h.answers, h.irqAt] using hclear)
  refine ⟨u, hu, ?_, ?_, hcnt⟩
  · simpa [h.irqAt, h.statusEvents] using h.trans hadv
  · simpa [latched, h.status1At, h.status2At] using hlatched

/-- As `statusRead_ok_at`, for a read that fails. -/
theorem statusRead_failed_at (h : Advance s n es t) (hh : s.hang = none) (hp : s.params.valid = true)
    (settle : Nat) (hfails : s.readFails n) :
    ∃ u m, statusRead settle t = .err .communicationFailure u ∧ Advance s m (es ++ s.failedReadEvents n) u
      ∧ (if (s.answerAt n).ok then latched s u n else statusKept t u) ∧ u.timeoutCnt = t.timeoutCnt := by
  obtain ⟨u, hu, hadv, hlatches, hcnt⟩ := statusRead_failed (h.hang.trans hh) (h.params ▸ hp) settle
    (by simpa [State.readFails, h.answers, h.irqAt] using hfails)
  refine ⟨u, _, hu, by simpa [h.failedReadEvents] using h.trans hadv, ?_, hcnt⟩
  simpa [latched, h.status1At, h.status2At, h.answers] using hlatches

/-- The command-error test on a sample (R145). -/
theorem checkCmdErr_of_latched (h : latched s t n) :
    checkCmdErr t = if s.cmdErrAt n then .err .chipReportedError (t.setSeq .commandError) else .ok t := by
  rw [checkCmdErr, cmdErr_of_latched h]

/-- A sample that ends the wait, by an error or by every awaited bit clear (R145). -/
theorem pollLoop_succ_of_ends {mask : Byte} {settle m : Nat} {u : State}
    (hu : statusRead settle t = .ok u) (hlatched : latched s u n)
    (hends : s.cmdErrAt n = true ∨ s.status2At n &&& mask = 0) :
    pollLoop mask settle (m + 1) t =
      if s.cmdErrAt n then .err .chipReportedError (u.setSeq .commandError) else .ok u := by
  rw [pollLoop, hu, andThen_ok, checkCmdErr_of_latched hlatched]
  cases herr : s.cmdErrAt n with
  | true => rfl
  | false =>
      have hclear : u.status2 &&& mask = 0 := by simpa [hlatched.2, herr] using hends
      simp [hclear]

/-- A sample that keeps the wait going: `DELAY(10)`, and the counter is decremented (R145). -/
theorem pollLoop_succ_of_waits {mask : Byte} {settle m : Nat} {u : State} (hh : u.hang = none)
    (hu : statusRead settle t = .ok u) (hlatched : latched s u n) (herr : s.cmdErrAt n = false)
    (hset : s.status2At n &&& mask ≠ 0) :
    pollLoop mask settle (m + 1) t = pollLoop mask settle m
      (((u.afterDelay 10).setTimeoutCnt (u.timeoutCnt - 1)).setSeq .polling) := by
  have hset' : ¬ u.status2 &&& mask = 0 := hlatched.2 ▸ hset
  rw [pollLoop, hu, andThen_ok, checkCmdErr_of_latched hlatched, herr, if_neg Bool.false_ne_true, andThen_ok,
    if_neg hset', delay_returns hh]
  rfl

/-! ## The samples of a wait -/

theorem sampleAt_succ (s : State) (n k : Nat) :
    s.sampleAt n (k + 1) = s.sampleAt n k + if s.irqAt (s.sampleAt n k) then 2 else 1 := rfl

theorem sampleAt_lt_succ (s : State) (n k : Nat) : s.sampleAt n k < s.sampleAt n (k + 1) := by
  rw [sampleAt_succ]; split <;> omega

/-- The frames of sample `k` are port calls before sample `k + 1`. -/
theorem portsOk_sample {k : Nat} (h : s.portsOk (s.sampleAt n (k + 1))) :
    (s.answerAt (s.sampleAt n k)).ok = true
      ∧ (s.irqAt (s.sampleAt n k) = true → (s.answerAt (s.sampleAt n k + 1)).ok = true) :=
  ⟨h _ (sampleAt_lt_succ s n k), fun hirq => h _ (by rw [sampleAt_succ, if_pos hirq]; omega)⟩

theorem portsOk_mono {j k : Nat} (h : s.portsOk k) (hjk : j ≤ k) : s.portsOk j :=
  fun i hi => h i (Nat.lt_of_lt_of_le hi hjk)

theorem waitEvents_succ (s : State) (n k settle : Nat) :
    s.waitEvents n (k + 1) settle
      = s.waitEvents n k settle ++ (s.statusEvents (s.sampleAt n k) settle ++ [.delay 10]) := by
  simp [State.waitEvents, List.range_succ]

theorem latchesAfter_of_statusKept {u : State} {k : Nat} (h : latchesAfter s t n k) (hkept : statusKept t u) :
    latchesAfter s u n k := by
  cases k with
  | zero => exact ⟨hkept.1.trans h.1, hkept.2.trans h.2⟩
  | succ k => exact ⟨hkept.1.trans h.1, hkept.2.trans h.2⟩

/-- The loop goes through `k` samples that end no wait (R145); induction on `k`, the last sample peeled off. -/
theorem pollLoop_waits (h : Advance s n es t) (hkept : statusKept s t) (hh : s.hang = none)
    (hp : s.params.valid = true) (hcnt : t.timeoutCnt < 2 ^ s.params.tw) (mask : Byte) (settle k m : Nat)
    (hports : s.portsOk (s.sampleAt n k)) (hwaits : s.waitsFor n k mask) :
    ∃ u, pollLoop mask settle (m + k) t = pollLoop mask settle m u
      ∧ Advance s (s.sampleAt n k) (es ++ s.waitEvents n k settle) u
      ∧ latchesAfter s u n k ∧ u.timeoutCnt = t.timeoutCnt - k := by
  induction k generalizing m with
  | zero => exact ⟨t, rfl, by simpa [State.waitEvents, State.sampleAt] using h, hkept, rfl⟩
  | succ k ih =>
      obtain ⟨u, hloop, hadv, -, hu⟩ := ih (m + 1) (portsOk_mono hports (sampleAt_lt_succ s n k).le)
        fun j hj => hwaits j (by omega)
      obtain ⟨hread, hclear⟩ := portsOk_sample hports
      obtain ⟨herr, hset⟩ := hwaits k (by omega)
      obtain ⟨v, hv, hadv', hlatched, hv'⟩ := statusRead_ok_at hadv hh hp settle hread hclear
      refine ⟨((v.afterDelay 10).setTimeoutCnt (v.timeoutCnt - 1)).setSeq .polling, ?_, ?_, hlatched, ?_⟩
      · rw [← pollLoop_succ_of_waits (hadv'.hang.trans hh) hv hlatched herr hset, ← hloop]
        congr 1; omega
      · have hnext := ((hadv'.trans (Advance.afterDelay v 10)).trans_zero
          (Advance.setTimeoutCnt _ (v.timeoutCnt - 1))).trans_zero (Advance.setSeq _ .polling)
        simpa [waitEvents_succ, sampleAt_succ, delayEvents] using hnext
      · have hlt : v.timeoutCnt - 1 < 2 ^ s.params.tw := by omega
        have hnext : v.params.ms (v.timeoutCnt - 1) = v.timeoutCnt - 1 := by
          rw [hadv'.params]; exact Nat.mod_eq_of_lt hlt
        simp only [State.setSeq_timeoutCnt, State.setTimeoutCnt_timeoutCnt, afterDelay_params, hnext]
        omega

/-! ## The wait -/

/-- `CHECK_STATUS` in poll mode is the settle delay, the load of the counter and the loop (R144, R145). -/
theorem checkPoll_starts (h : Advance s n es t) (hkept : statusKept s t) (hh : s.hang = none) (mask : Byte)
    (timeout settle : Nat) (htw : timeout < 2 ^ s.params.tw) :
    ∃ u, checkPoll mask timeout settle t = pollLoop mask settle (timeout / 10) u
      ∧ Advance s n (es ++ delayEvents settle) u ∧ statusKept s u ∧ u.timeoutCnt = timeout / 10 := by
  have hdelayed := h.trans (Advance.afterDelay t settle)
  have hload : s.params.ms (timeoutLoad timeout) = timeout / 10 :=
    Nat.mod_eq_of_lt (Nat.lt_of_le_of_lt (Nat.div_le_self _ _) htw)
  refine ⟨((t.afterDelay settle).setTimeoutCnt (timeoutLoad timeout)).setSeq .polling,
    ?_, ?_, hkept, ?_⟩
  · simp [checkPoll, delay_returns (h.hang.trans hh), h.params, hload]
  · exact (hdelayed.trans_zero (Advance.setTimeoutCnt _ _)).trans_zero (Advance.setSeq _ _)
  · simp [h.params, hload]

/-- The wait goes through `k` samples that do not end it, and has `timeout / 10 - k` left. -/
theorem checkPoll_waits (h : Advance s n es t) (hkept : statusKept s t) (hh : s.hang = none)
    (hp : s.params.valid = true) (mask : Byte) {timeout : Nat} (settle : Nat) (htw : timeout < 2 ^ s.params.tw)
    {k : Nat} (hk : k ≤ timeout / 10) (hports : s.portsOk (s.sampleAt n k)) (hwaits : s.waitsFor n k mask) :
    ∃ u, checkPoll mask timeout settle t = pollLoop mask settle (timeout / 10 - k) u
      ∧ Advance s (s.sampleAt n k) (es ++ delayEvents settle ++ s.waitEvents n k settle) u
      ∧ latchesAfter s u n k ∧ u.timeoutCnt = timeout / 10 - k := by
  obtain ⟨v, hv, hadv, hkept', hcnt⟩ := checkPoll_starts h hkept hh mask timeout settle htw
  obtain ⟨u, hu, hrest⟩ :=
    pollLoop_waits hadv hkept' hh hp (by omega) mask settle k (timeout / 10 - k) hports hwaits
  rw [Nat.sub_add_cancel hk, ← hv] at hu
  exact ⟨u, hu, by rwa [hcnt] at hrest⟩

/-- A wait that sample `k` ends: `ChipReportedError` if it shows the command-error bit, else it goes on (R145). -/
theorem checkPoll_ends_at_sample (h : Advance s n es t) (hkept : statusKept s t) (hh : s.hang = none)
    (hp : s.params.valid = true) (mask : Byte) {timeout : Nat} (settle : Nat) (htw : timeout < 2 ^ s.params.tw)
    {k : Nat} (hk : k < timeout / 10) (hends : s.waitEnds n k mask) :
    ∃ u, checkPoll mask timeout settle t
        = (if s.cmdErrAt (s.sampleAt n k) then .err .chipReportedError u else .ok u)
      ∧ Advance s (s.sampleAt n (k + 1)) (es ++ delayEvents settle ++ s.waitEvents n k settle
          ++ s.statusEvents (s.sampleAt n k) settle) u
      ∧ latchesAfter s u n (k + 1) ∧ u.timeoutCnt = timeout / 10 - k := by
  obtain ⟨hports, hwaits, hend⟩ := hends
  obtain ⟨u, hu, hadv, -, hcnt⟩ := checkPoll_waits h hkept hh hp mask settle htw hk.le
    (portsOk_mono hports (sampleAt_lt_succ s n k).le) hwaits
  obtain ⟨hread, hclear⟩ := portsOk_sample hports
  obtain ⟨v, hv, hadv', hlatched, hv'⟩ := statusRead_ok_at hadv hh hp settle hread hclear
  obtain ⟨m, hm⟩ : ∃ m, timeout / 10 - k = m + 1 := ⟨timeout / 10 - k - 1, by omega⟩
  rw [hu, hm, pollLoop_succ_of_ends hv hlatched hend]
  cases s.cmdErrAt (s.sampleAt n k) with
  | true =>
      exact ⟨v.setSeq .commandError, rfl, hadv'.trans_zero (Advance.setSeq _ _), hlatched, by simp [hv', hcnt, hm]⟩
  | false => exact ⟨v, rfl, hadv', hlatched, by simp [hv', hcnt, hm]⟩

/-- A wait whose read of sample `k` fails (R142, R274). -/
theorem checkPoll_breaks_at_sample (h : Advance s n es t) (hkept : statusKept s t) (hh : s.hang = none)
    (hp : s.params.valid = true) (mask : Byte) {timeout : Nat} (settle : Nat) (htw : timeout < 2 ^ s.params.tw)
    {k : Nat} (hk : k < timeout / 10) (hbreaks : s.waitBreaks n k mask) :
    ∃ u m, checkPoll mask timeout settle t = .err .communicationFailure u
      ∧ Advance s m (es ++ delayEvents settle ++ s.waitEvents n k settle
          ++ s.failedReadEvents (s.sampleAt n k)) u
      ∧ latchesAfter s u n (if (s.answerAt (s.sampleAt n k)).ok then k + 1 else k)
      ∧ u.timeoutCnt = timeout / 10 - k := by
  obtain ⟨hports, hwaits, hfails⟩ := hbreaks
  obtain ⟨u, hu, hadv, hlatches, hcnt⟩ := checkPoll_waits h hkept hh hp mask settle htw hk.le hports hwaits
  obtain ⟨v, m, hv, hadv', hlatches', hv'⟩ := statusRead_failed_at hadv hh hp settle hfails
  obtain ⟨l, hl⟩ : ∃ l, timeout / 10 - k = l + 1 := ⟨timeout / 10 - k - 1, by omega⟩
  refine ⟨v, m, by rw [hu, hl, pollLoop, hv]; rfl, hadv', ?_, hv'.trans hcnt⟩
  by_cases hread : (s.answerAt (s.sampleAt n k)).ok = true
  · rw [if_pos hread] at hlatches' ⊢
    exact hlatches'
  · rw [if_neg hread] at hlatches' ⊢
    exact latchesAfter_of_statusKept hlatches hlatches'

/-- A wait that no sample ends (R146). -/
theorem checkPoll_expires (h : Advance s n es t) (hkept : statusKept s t) (hh : s.hang = none)
    (hp : s.params.valid = true) (mask : Byte) {timeout : Nat} (settle : Nat) (htw : timeout < 2 ^ s.params.tw)
    (hexpires : s.waitExpires n (timeout / 10) mask) :
    ∃ u, checkPoll mask timeout settle t = .err .timeout u
      ∧ Advance s (s.sampleAt n (timeout / 10))
          (es ++ delayEvents settle ++ s.waitEvents n (timeout / 10) settle) u
      ∧ latchesAfter s u n (timeout / 10) ∧ u.timeoutCnt = 0 := by
  obtain ⟨u, hu, hadv, hlatches, hcnt⟩ := checkPoll_waits h hkept hh hp mask settle htw le_rfl hexpires.1 hexpires.2
  rw [Nat.sub_self] at hu hcnt
  exact ⟨u.setSeq .timedOut, hu, hadv.trans_zero (Advance.setSeq _ _),
    latchesAfter_of_statusKept hlatches (by simp [statusKept]), hcnt⟩

end

/-! ## The end of an operation -/

/-- A gated operation that can start runs its body from `CommandIssued`. -/
theorem gated_of_initialized {s : State} {body : State → Res} {data : State → Option Data} (hseq : s.seq = .idle)
    (hinit : s.initialized = true) : gated body data s = finish (body (s.setSeq .commandIssued)) data := by
  simp [gated, operation, requireInit, hseq, hinit]

/-- `t` is the idle engine after an operation that came to `e` at `u`. -/
structure EndedAt (e : ErrCode) (u t : State) : Prop where
  ended : endedWith t e
  status : statusKept u t
  cnt : t.timeoutCnt = u.timeoutCnt
  advance : ∀ {s : State} {n : Nat} {es : List Event}, Advance s n es u →
    t.trace = s.trace ++ es ∧ handleKept s t ∧ instanceKept s t ∧ t.apcTmp = s.apcTmp

theorem endedAt_endErr (e : ErrCode) (u : State) : EndedAt e u (u.endErr e) where
  ended := by simp [endedWith]
  status := by simp [statusKept]
  cnt := by simp
  advance h := ⟨by simpa using h.trace, handleKept_trans h.handle (by simp [handleKept]),
    instanceKept_trans h.inst (by simp [instanceKept]), by simpa using h.apcTmp⟩

theorem endedAt_endOk (u : State) (d : Option Data) : EndedAt .ok u (u.endOk d) where
  ended := by simp [endedWith]
  status := by simp [statusKept]
  cnt := by simp
  advance h := ⟨by simpa using h.trace, handleKept_trans h.handle (by simp [handleKept]),
    instanceKept_trans h.inst (by simp [instanceKept]), by simpa using h.apcTmp⟩

/-! ## POLL_WAIT -/

/-- POLL_WAIT that can start is its wait, with the `TW` bits of its two times (R149, assumption 21). -/
theorem pollWait_eq_finish {s : State} (hs : s.ready) (mask : Byte) (timeout settle : Nat) :
    execHost (.pollWait mask timeout settle) s
      = finish (checkPoll mask (s.params.ms timeout) (s.params.ms settle) (s.setSeq .commandIssued)) noData :=
  gated_of_initialized hs.1 hs.2.1

theorem ms_lt (p : Params) (n : Nat) : p.ms n < 2 ^ p.tw := Nat.mod_lt _ (Nat.two_pow_pos _)

theorem ms_ms (p : Params) (n : Nat) : p.ms (p.ms n) = p.ms n := Nat.mod_mod n _

/-- POLL_WAIT with `k` samples that keep it waiting and one that ends it: `Ok`, or `ChipReportedError` if that one
shows the command-error bit. -/
theorem pollWait_ends {s : State} (hs : s.ready) (mask : Byte) (timeout settle : Nat) {k : Nat}
    (hk : k < s.params.ms timeout / 10) (hends : s.waitEnds 0 k mask) :
    ∃ t, execHost (.pollWait mask timeout settle) s = .next t
      ∧ endedWith t (sampleResult (s.cmdErrAt (s.sampleAt 0 k)))
      ∧ t.trace = s.trace ++ delayEvents (s.params.ms settle) ++ s.waitEvents 0 k (s.params.ms settle)
          ++ s.statusEvents (s.sampleAt 0 k) (s.params.ms settle)
      ∧ latchesAfter s t 0 (k + 1) ∧ t.timeoutCnt = s.params.ms timeout / 10 - k
      ∧ handleKept s t ∧ instanceKept s t ∧ t.apcTmp = s.apcTmp := by
  have ⟨_, _, hp, hh⟩ := hs
  obtain ⟨u, hu, hadv, hlatches, hcnt⟩ := checkPoll_ends_at_sample (Advance.setSeq s .commandIssued)
    (by simp [statusKept]) hh hp mask (s.params.ms settle) (ms_lt s.params timeout) hk hends
  obtain ⟨t, ht, hend⟩ : ∃ t, execHost (.pollWait mask timeout settle) s = .next t
      ∧ EndedAt (sampleResult (s.cmdErrAt (s.sampleAt 0 k))) u t := by
    rw [pollWait_eq_finish hs, hu]
    cases s.cmdErrAt (s.sampleAt 0 k) with
    | true => exact ⟨_, rfl, endedAt_endErr _ u⟩
    | false => exact ⟨_, rfl, endedAt_endOk u _⟩
  obtain ⟨htrace, hkept⟩ := hend.advance hadv
  exact ⟨t, ht, hend.ended, by simpa using htrace, latchesAfter_of_statusKept hlatches hend.status,
    hend.cnt.trans hcnt, hkept⟩

/-- POLL_WAIT with `k` samples that keep it waiting and then a read that fails. -/
theorem pollWait_breaks {s : State} (hs : s.ready) (mask : Byte) (timeout settle : Nat) {k : Nat}
    (hk : k < s.params.ms timeout / 10) (hbreaks : s.waitBreaks 0 k mask) :
    ∃ t, execHost (.pollWait mask timeout settle) s = .next t ∧ endedWith t .communicationFailure
      ∧ t.trace = s.trace ++ delayEvents (s.params.ms settle) ++ s.waitEvents 0 k (s.params.ms settle)
          ++ s.failedReadEvents (s.sampleAt 0 k)
      ∧ latchesAfter s t 0 (if (s.answerAt (s.sampleAt 0 k)).ok then k + 1 else k)
      ∧ t.timeoutCnt = s.params.ms timeout / 10 - k
      ∧ handleKept s t ∧ instanceKept s t ∧ t.apcTmp = s.apcTmp := by
  have ⟨_, _, hp, hh⟩ := hs
  obtain ⟨u, m, hu, hadv, hlatches, hcnt⟩ := checkPoll_breaks_at_sample (Advance.setSeq s .commandIssued)
    (by simp [statusKept]) hh hp mask (s.params.ms settle) (ms_lt s.params timeout) hk hbreaks
  have hend := endedAt_endErr .communicationFailure u
  obtain ⟨htrace, hkept⟩ := hend.advance hadv
  exact ⟨_, by rw [pollWait_eq_finish hs, hu]; rfl, hend.ended, by simpa using htrace,
    latchesAfter_of_statusKept hlatches hend.status, hend.cnt.trans hcnt, hkept⟩

/-! ## The bound on the samples -/

/-- `t` is `s` after `m` status frames and `c` clear-interrupt frames handed to the PHY, whether they succeeded or
not. -/
def statusFrames (p : Params) (m c : Nat) (s t : State) : Prop :=
  ∃ es, t.trace = s.trace ++ es ∧ sentCount ((rd3Frame p 0x05).map bitrev8) es = m
    ∧ sentCount ((cmdFrame p 0x04).map bitrev8) es = c

theorem sentCount_append (w : List Byte) (es fs : List Event) :
    sentCount w (es ++ fs) = sentCount w es + sentCount w fs := by
  simp [sentCount]

theorem sentCount_singleton (w : List Byte) (e : Event) :
    sentCount w [e] = if e.sent = some w then 1 else 0 := by
  by_cases h : e.sent = some w <;> simp [sentCount, h]

/-- The two frames differ in their opcode. -/
theorem statusWire_ne_clearWire (p : Params) :
    (rd3Frame p 0x05).map bitrev8 ≠ (cmdFrame p 0x04).map bitrev8 := by
  intro h
  have hhead := congrArg List.head? h
  simp only [rd3Frame, cmdFrame, List.map_cons, List.head?_cons, Option.some.injEq] at hhead
  exact absurd (bitrev8_injective hhead) (by decide)

theorem statusFrames_trans {p : Params} {m c m' c' : Nat} {s t u : State} (h : statusFrames p m c s t)
    (k : statusFrames p m' c' t u) : statusFrames p (m + m') (c + c') s u := by
  obtain ⟨es, htrace, hm, hc⟩ := h
  obtain ⟨fs, ktrace, km, kc⟩ := k
  exact ⟨es ++ fs, by rw [ktrace, htrace, List.append_assoc], by rw [sentCount_append, hm, km],
    by rw [sentCount_append, hc, kc]⟩

theorem statusFrames_of_trace_eq {p : Params} {s t : State} (h : t.trace = s.trace) : statusFrames p 0 0 s t :=
  ⟨[], by simp [h], rfl, rfl⟩

theorem statusFrames_of_statusFrame {p : Params} {s t : State} {e : Event} (h : t.trace = s.trace ++ [e])
    (he : e.sent = some ((rd3Frame p 0x05).map bitrev8)) : statusFrames p 1 0 s t :=
  ⟨[e], h, by simp [sentCount_singleton, he], by
    rw [sentCount_singleton, he, if_neg]
    exact fun hc => statusWire_ne_clearWire p (Option.some.inj hc)⟩

theorem statusFrames_of_clearFrame {p : Params} {s t : State} {e : Event} (h : t.trace = s.trace ++ [e])
    (he : e.sent = some ((cmdFrame p 0x04).map bitrev8)) : statusFrames p 0 1 s t :=
  ⟨[e], h, by
    rw [sentCount_singleton, he, if_neg]
    exact fun hc => statusWire_ne_clearWire p (Option.some.inj hc).symm, by simp [sentCount_singleton, he]⟩

theorem portReturns_ne_err {s t : State} (e : ErrCode) : portReturns s ≠ .err e t := by
  unfold portReturns; split <;> simp

/-- Every exchange that returns is one event, which holds the frame's wire bytes. -/
theorem sendFrame_sent (i : Instr) (s : State) (hp : s.params.valid = true) :
    (sendFrame i s).sat fun t =>
      ∃ e, t.trace = s.trace ++ [e] ∧ e.sent = some ((encodeWith s.params i).map bitrev8) := by
  have hwire := wireFrame_loadFrame s (encodeWith_length_le s.params hp i)
  unfold sendFrame xfer exchange
  cases hr : portReturns (s.loadFrame (encodeWith s.params i)) with
  | stuck => trivial
  | err e t => exact absurd hr (portReturns_ne_err _)
  | ok t =>
      obtain ⟨h, rfl⟩ : ∃ h, t = (s.loadFrame (encodeWith s.params i)).setHang h := by
        simpa [hr] using portReturns_quiet (s.loadFrame (encodeWith s.params i))
      rw [andThen_ok]
      split
      · exact ⟨.xfer _ _, congrArg (· ++ [_]) (by simp), congrArg some hwire⟩
      · exact ⟨.xferFail _, congrArg (· ++ [_]) (by simp), congrArg some hwire⟩

/-- No frame is handed to the PHY by a delay. -/
theorem delay_frames (p : Params) (ms : Nat) (s : State) : (delay ms s).sat (statusFrames p 0 0 s) := by
  unfold delay
  split
  · exact statusFrames_of_trace_eq rfl
  · refine Res.sat_andThen (portReturns_quiet s) ?_ ?_
    · rintro t ⟨h, rfl⟩
      exact statusFrames_of_trace_eq rfl
    · rintro t ⟨h, rfl⟩
      exact ⟨[.delay ms], rfl, rfl, rfl⟩

theorem Res.sat_and {r : Res} {P Q : State → Prop} (h : r.sat P) (k : r.sat Q) : r.sat fun t => P t ∧ Q t := by
  cases r with
  | ok t => exact ⟨h, k⟩
  | err e t => exact ⟨h, k⟩
  | stuck => trivial

/-- A status read is one status frame and at most one clear-interrupt frame, whatever the ports answer (R142). -/
theorem statusRead_frames (settle : Nat) (s : State) (hp : s.params.valid = true) :
    (statusRead settle s).sat fun t => ∃ c ≤ 1, statusFrames s.params 1 c s t := by
  have hread : (sendFrame .rdStatus s).sat fun t => Quiet s t ∧ statusFrames s.params 1 0 s t :=
    Res.sat_and (sendFrame_sat .rdStatus s)
      (Res.sat_mono (sendFrame_sent .rdStatus s hp) fun _ ⟨_, h, he⟩ => statusFrames_of_statusFrame h he)
  refine Res.sat_andThen hread (fun t ⟨_, h⟩ => ⟨0, by omega, h⟩) fun t ⟨hquiet, h⟩ => ?_
  have hparams : t.params = s.params := hquiet.inst.2.2.1
  have hlatch : statusFrames s.params 1 0 s t.latchStatus :=
    statusFrames_trans h (statusFrames_of_trace_eq rfl)
  have hclear : (sendFrame .clrInt t.latchStatus).sat (statusFrames s.params 1 1 s) :=
    Res.sat_mono (sendFrame_sent .clrInt t.latchStatus (hparams ▸ hp)) fun u ⟨e, hu, he⟩ =>
      statusFrames_trans hlatch (statusFrames_of_clearFrame hu (hparams ▸ he))
  split
  · exact Res.sat_andThen hclear (fun u hu => ⟨1, le_rfl, hu⟩) fun u hu =>
      Res.sat_mono (delay_frames s.params settle u) fun v hv => ⟨1, le_rfl, statusFrames_trans hu hv⟩
  · exact ⟨0, by omega, hlatch⟩

/-- `P` holds of the code that `r` comes to, `Ok` where it goes on, and of the state it leaves. -/
def Res.satCode (r : Res) (P : ErrCode → State → Prop) : Prop :=
  match r with
  | .ok t => P .ok t
  | .err e t => P e t
  | .stuck => True

theorem Res.satCode_andThen {r : Res} {k : State → Res} {P Q : ErrCode → State → Prop} (h : r.satCode P)
    (hPQ : ∀ e t, P e t → Q e t) (hk : ∀ t, P .ok t → (k t).satCode Q) : (r.andThen k).satCode Q := by
  cases r with
  | ok t => exact hk t h
  | err e t => exact hPQ e t h
  | stuck => trivial

theorem Res.satCode_mono {r : Res} {P Q : ErrCode → State → Prop} (h : r.satCode P)
    (hPQ : ∀ e t, P e t → Q e t) : r.satCode Q := by
  cases r with
  | ok t => exact hPQ _ t h
  | err e t => exact hPQ e t h
  | stuck => trivial

/-- A part that raises only codes of `Completed` does not come to `Timeout`. -/
theorem Res.satCode_of_plain {r : Res} {P : State → Prop} (h : r.sat P) (hr : r.plain) :
    r.satCode fun e t => e ≠ .timeout ∧ P t := by
  cases r with
  | ok t => exact ⟨by decide, h⟩
  | stuck => trivial
  | err e t =>
      refine ⟨?_, h⟩
      rintro rfl
      exact absurd hr.2 (by decide)

/-- A pass of the wait that does not come to `Timeout`: it handed one status frame and at most one clear-interrupt
frame to the PHY, and left the counter. -/
def onePass (s : State) (e : ErrCode) (t : State) : Prop :=
  e ≠ .timeout ∧ (∃ c ≤ 1, statusFrames s.params 1 c s t) ∧ t.params = s.params ∧ t.timeoutCnt = s.timeoutCnt

/-- What the read and the error test of a sample come to (R142, R145). -/
theorem sample_onePass (settle : Nat) (s : State) (hp : s.params.valid = true) :
    ((statusRead settle s).andThen checkCmdErr).satCode (onePass s) := by
  have hread : (statusRead settle s).satCode (onePass s) :=
    Res.satCode_mono (Res.satCode_of_plain
      (Res.sat_and (statusRead_sat settle s) (statusRead_frames settle s hp)) (statusRead_plain settle s))
      fun e t ⟨he, hquiet, hframes⟩ => ⟨he, hframes, hquiet.inst.2.2.1, hquiet.cnt⟩
  refine Res.satCode_andThen hread (fun _ _ h => h) fun t ⟨he, ⟨c, hc, hframes⟩, hkept⟩ => ?_
  unfold checkCmdErr
  split
  · exact ⟨by decide, ⟨c, hc, statusFrames_trans hframes (statusFrames_of_trace_eq rfl)⟩, hkept⟩
  · exact ⟨he, ⟨c, hc, hframes⟩, hkept⟩

/-- The delay between two samples adds no frame. -/
theorem delay_onePass {s t : State} (ms : Nat) (h : onePass s .ok t) : (delay ms t).satCode (onePass s) := by
  obtain ⟨-, ⟨c, hc, hframes⟩, hparams, hcnt⟩ := h
  exact Res.satCode_mono (Res.satCode_of_plain
    (Res.sat_and (delay_sat ms t) (delay_frames s.params ms t)) (delay_plain ms t))
    fun e u ⟨he, hquiet, hnone⟩ => ⟨he, ⟨c, hc, statusFrames_trans hframes hnone⟩,
      hquiet.inst.2.2.1.trans hparams, hquiet.cnt.trans hcnt⟩

/-- R146: at most `n` status frames, at most one clear-interrupt frame for each, and `n` of them on `Timeout`, where
the counter is 0. -/
def pollsAtMost (n : Nat) (s : State) (e : ErrCode) (t : State) : Prop :=
  ∃ m c, statusFrames s.params m c s t ∧ c ≤ m ∧ m ≤ n ∧ (e = .timeout → m = n ∧ t.timeoutCnt = 0)

theorem pollsAtMost_of_onePass {n : Nat} {s t : State} {e : ErrCode} (h : onePass s e t) :
    pollsAtMost (n + 1) s e t := by
  obtain ⟨he, ⟨c, hc, hframes⟩, -⟩ := h
  exact ⟨1, c, hframes, hc, by omega, fun h => absurd h he⟩

/-- Frames handed to the PHY before the rest of a wait. -/
theorem pollsAtMost_trans {n m c : Nat} {s t u : State} {e : ErrCode} (h : statusFrames s.params m c s t)
    (hc : c ≤ m) (hparams : t.params = s.params) (hrest : pollsAtMost n t e u) : pollsAtMost (m + n) s e u := by
  obtain ⟨m', c', hframes, hc', hm', htimeout⟩ := hrest
  rw [hparams] at hframes
  exact ⟨m + m', c + c', statusFrames_trans h hframes, by omega, by omega,
    fun he => ⟨by rw [(htimeout he).1], (htimeout he).2⟩⟩

/-- The bound, by induction on the counter. -/
theorem pollLoop_pollsAtMost (mask : Byte) (settle n : Nat) (s : State) (hp : s.params.valid = true)
    (hcnt : s.timeoutCnt = n) (hn : n < 2 ^ s.params.tw) :
    (pollLoop mask settle n s).satCode (pollsAtMost n s) := by
  induction n generalizing s with
  | zero => exact ⟨0, 0, statusFrames_of_trace_eq rfl, le_rfl, le_rfl, fun _ => ⟨rfl, hcnt⟩⟩
  | succ n ih =>
      refine Res.satCode_andThen (sample_onePass settle s hp) (fun _ _ => pollsAtMost_of_onePass) fun t ht => ?_
      split
      · exact pollsAtMost_of_onePass ht
      refine Res.satCode_andThen (delay_onePass 10 ht) (fun _ _ => pollsAtMost_of_onePass) fun u hu => ?_
      obtain ⟨-, ⟨c, hc, hframes⟩, hparams, hkept⟩ := hu
      have hdec : u.params.ms (u.timeoutCnt - 1) = n := by
        rw [hkept, hcnt, hparams]; exact Nat.mod_eq_of_lt (by omega)
      have hrest := ih ((u.setTimeoutCnt (u.timeoutCnt - 1)).setSeq .polling) (by simpa [hparams] using hp)
        (by simpa using hdec) (by simp only [State.setSeq_params, State.setTimeoutCnt_params, hparams]; omega)
      rw [Nat.add_comm]
      exact Res.satCode_mono hrest fun e v =>
        pollsAtMost_trans (statusFrames_trans hframes (statusFrames_of_trace_eq rfl)) hc (by simpa using hparams)

theorem checkPoll_pollsAtMost (mask : Byte) (timeout settle : Nat) (s : State) (hp : s.params.valid = true)
    (htw : timeout < 2 ^ s.params.tw) :
    (checkPoll mask timeout settle s).satCode (pollsAtMost (timeout / 10) s) := by
  have hdelay : (delay settle s).satCode fun e t => e ≠ .timeout ∧ Quiet s t ∧ statusFrames s.params 0 0 s t :=
    Res.satCode_of_plain (Res.sat_and (delay_sat settle s) (delay_frames s.params settle s)) (delay_plain settle s)
  refine Res.satCode_andThen hdelay
    (fun e t ⟨he, _, hframes⟩ => ⟨0, 0, hframes, le_rfl, by omega, fun h => absurd h he⟩)
    fun t ⟨_, hquiet, hframes⟩ => ?_
  have hparams : t.params = s.params := hquiet.inst.2.2.1
  have hlt : timeout / 10 < 2 ^ s.params.tw := Nat.lt_of_le_of_lt (Nat.div_le_self _ _) htw
  have hload : (t.setTimeoutCnt (timeoutLoad timeout)).timeoutCnt = timeout / 10 := by
    rw [State.setTimeoutCnt_timeoutCnt, hparams]; exact Nat.mod_eq_of_lt hlt
  have hloop := pollLoop_pollsAtMost mask settle (timeout / 10)
    ((t.setTimeoutCnt (timeoutLoad timeout)).setSeq .polling) (by simpa [hparams] using hp)
    (by simpa using hload) (by simpa [hparams] using hlt)
  rw [hload]
  refine Res.satCode_mono hloop fun e u hu => ?_
  simpa using pollsAtMost_trans (statusFrames_trans hframes (statusFrames_of_trace_eq rfl)) le_rfl
    (by simpa using hparams) hu

/-- What an operation that ends comes to is what its body comes to. -/
theorem operation_satCode {body : State → Res} {data : State → Option Data} {s t : State}
    {P : ErrCode → State → Prop} (hb : (body (s.setSeq .commandIssued)).satCode P)
    (h : operation body data s = .next t) :
    ∃ u, P t.result u ∧ t.trace = u.trace ∧ t.timeoutCnt = u.timeoutCnt := by
  obtain ⟨-, ⟨u, hu, rfl⟩ | ⟨e, u, hu, rfl⟩⟩ := operation_next h
  · rw [hu] at hb
    exact ⟨u, by rw [State.endOk_result]; exact hb, by simp, by simp⟩
  · rw [hu] at hb
    exact ⟨u, by rw [State.endErr_result]; exact hb, by simp, by simp⟩

/-! ## The flags -/

theorem s2Index_lt (p : Params) (f : S2Flag) : s2Index p f < 8 := by
  cases f <;> exact Fin.isLt _

theorem getLsbD_s2Mask (p : Params) (f : S2Flag) (i : Nat) :
    (s2Mask p f).getLsbD i = decide (i = s2Index p f) := by
  have hlt := s2Index_lt p f
  rw [s2Mask, ← BitVec.twoPow_eq, BitVec.getLsbD_twoPow]
  simp [hlt, eq_comm]

/-! ## The obligations -/

/-- Settles O29: the three clauses are the outcomes of `statusRead_ok` and `statusRead_failed`. -/
theorem statusReadClearsWhatItSees : Obligations.StatusReadClearsWhatItSees := by
  intro s settle hh hp
  refine ⟨fun hread hclear => ?_, fun hread hirq hclear => ?_, fun hread => ?_⟩
  · obtain ⟨t, ht, hadv, ⟨h1, h2⟩, hcnt⟩ := statusRead_ok hh hp settle hread hclear
    exact ⟨t, ht, h1, h2, hadv.trace, hadv.handle, hadv.inst, hcnt, hadv.apcTmp⟩
  · obtain ⟨t, ht, hadv, hlatched, hcnt⟩ := statusRead_failed hh hp settle (.inr ⟨hread, hirq, hclear⟩)
    rw [if_pos hread] at hlatched
    exact ⟨t, ht, hlatched.1, hlatched.2, by simpa [State.failedReadEvents, hread] using hadv.trace, hadv.handle,
      hadv.inst, hcnt, hadv.apcTmp⟩
  · obtain ⟨t, ht, hadv, hkept, hcnt⟩ := statusRead_failed hh hp settle (.inl hread)
    rw [if_neg (by simp [hread])] at hkept
    exact ⟨t, ht, ⟨hadv.handle, hkept, hadv.inst, hcnt, hadv.apcTmp⟩,
      by simpa [State.failedReadEvents, hread] using hadv.trace⟩

/-- Settles O26: GET_STATUS is one `STATUS_READ(0)` from `CommandIssued`, whose data is the latch it wrote. -/
theorem getStatusReturnsTheWordItRead : Obligations.GetStatusReturnsTheWordItRead := by
  intro s hs
  have ⟨hseq, hinit, hp, hh⟩ := hs
  have hexec : exec .rdStatus s = finish (statusRead 0 (s.setSeq .commandIssued)) fun t => some t.status1 :=
    gated_of_initialized hseq hinit
  have hstart := Advance.setSeq s .commandIssued
  rw [hexec]
  refine ⟨fun hread hclear => ?_, fun hfails => ?_⟩
  · obtain ⟨u, hu, hadv, ⟨h1, h2⟩, hcnt⟩ := statusRead_ok_at hstart hh hp 0 hread hclear
    have hend := endedAt_endOk u (some u.status1)
    obtain ⟨htrace, hhandle, hinst, hapc⟩ := hend.advance hadv
    exact ⟨_, by rw [hu]; rfl, hend.ended, h1, hend.status.1.trans h1, hend.status.2.trans h2, htrace,
      hhandle, hinst, hend.cnt.trans hcnt, hapc⟩
  · obtain ⟨u, m, hu, hadv, hlatches, hcnt⟩ := statusRead_failed_at hstart hh hp 0 hfails
    have hend := endedAt_endErr .communicationFailure u
    obtain ⟨htrace, hhandle, hinst, hapc⟩ := hend.advance hadv
    refine ⟨_, by rw [hu]; rfl, hend.ended, fun hread => ?_, fun hread => ?_, htrace, hhandle, hinst,
      hend.cnt.trans hcnt, hapc⟩
    · rw [if_pos hread] at hlatches
      exact ⟨hend.status.1.trans hlatches.1, hend.status.2.trans hlatches.2⟩
    · rw [if_neg (by simp [hread])] at hlatches
      exact ⟨hend.status.1.trans hlatches.1, hend.status.2.trans hlatches.2⟩

/-- Settles O32, by `pollWait_ends` and `pollWait_breaks`. -/
theorem pollWaitEndsOnTheFirstClearSample : Obligations.PollWaitEndsOnTheFirstClearSample := by
  intro s mask timeout settle k hs hk
  refine ⟨fun hends herr => ?_, pollWait_breaks hs mask timeout settle hk⟩
  have hwait := pollWait_ends hs mask timeout settle hk hends
  rwa [herr] at hwait

/-- Settles O34, by `pollWait_ends`. -/
theorem pollAbortsOnACommandError : Obligations.PollAbortsOnACommandError := by
  intro s mask timeout settle k hs hk hends herr
  have hwait := pollWait_ends hs mask timeout settle hk hends
  rwa [herr] at hwait

/-- Settles O33: the wait expires, `checkPoll_expires`. -/
theorem pollWaitTimesOutAfterItsSamples : Obligations.PollWaitTimesOutAfterItsSamples := by
  intro s mask timeout settle hs hexpires
  have ⟨_, _, hp, hh⟩ := hs
  obtain ⟨u, hu, hadv, hlatches, hcnt⟩ := checkPoll_expires (Advance.setSeq s .commandIssued)
    (by simp [statusKept]) hh hp mask (s.params.ms settle) (ms_lt s.params timeout) hexpires
  have hend := endedAt_endErr .timeout u
  obtain ⟨htrace, hkept⟩ := hend.advance hadv
  exact ⟨_, by rw [pollWait_eq_finish hs, hu]; rfl, hend.ended, by simpa using htrace,
    latchesAfter_of_statusKept hlatches hend.status, hend.cnt.trans hcnt, hkept⟩

/-- Settles O35: the bound of `pollLoop_pollsAtMost`; an engine that is not initialized hands no frame to the PHY. -/
theorem pollingIsBoundedByItsTimeout : Obligations.PollingIsBoundedByItsTimeout := by
  intro s t mask timeout settle hp hexec
  have hbody : ((requireInit (s.setSeq .commandIssued)).andThen
      (checkPoll mask (s.params.ms timeout) (s.params.ms settle))).satCode
      (pollsAtMost (s.params.ms timeout / 10) (s.setSeq .commandIssued)) := by
    unfold requireInit
    split
    · exact checkPoll_pollsAtMost mask _ _ (s.setSeq .commandIssued) hp (ms_lt s.params timeout)
    · exact ⟨0, 0, statusFrames_of_trace_eq rfl, le_rfl, by omega, by simp⟩
  obtain ⟨u, ⟨m, c, ⟨es, htrace, hm, hc⟩, hcm, hmn, htimeout⟩, ht, hcnt⟩ := operation_satCode
    (body := fun u => (requireInit u).andThen (checkPoll mask (s.params.ms timeout) (s.params.ms settle)))
    (data := noData) hbody hexec
  exact ⟨es, ht.trans htrace, hm.le.trans hmn, hc.le.trans (hcm.trans hm.ge),
    fun he => ⟨hm.trans (htimeout he).1, hcnt.trans (htimeout he).2⟩⟩

/-- Settles O30: the flags by their definitions, the masks by `getLsbD_s2Mask`; the example's latches evaluate. -/
theorem statusFlagsAreBitsOfTheLatches : Obligations.StatusFlagsAreBitsOfTheLatches := by
  refine ⟨fun _ => ⟨rfl, rfl⟩, fun _ => ⟨rfl, rfl, rfl, rfl, rfl⟩, getLsbD_s2Mask, fun s hparams h0 h1 h2 => ?_⟩
  have hstatus1 : s.latchStatus.status1 = 0x0019 := by simp [rxStatus1, h0, h1]
  have hstatus2 : s.latchStatus.status2 = 0x05 := h2
  simp only [State.cmdErr, State.eom, State.int, State.s2Flag, s2Index, hstatus1, hstatus2,
    State.latchStatus_params, hparams]
  decide

/-- Settles O31: a tenth of a number of `TW` bits is one too, and reducing a time to `TW` bits twice is once. -/
theorem timeoutCounterLoad : Obligations.TimeoutCounterLoad := by
  refine ⟨fun s timeout htw => ?_, rfl, rfl, rfl, rfl, rfl, rfl, fun s mask timeout settle =>
    ⟨ms_lt s.params timeout, ?_⟩⟩
  · exact Nat.mod_eq_of_lt (Nat.lt_of_le_of_lt (Nat.div_le_self _ _) htw)
  · simp only [execHost, hostPollWait, ms_ms]

end Sys2Proof.Machine
end

section
/-! Proofs. The fields of the APC word (42_apc_accessors.md R163 to R165), bit by bit: `getLsbD_apcInsert` says what the
modify step leaves at each place, and at a legal field table the spans of two fields share none. -/

namespace Sys2Proof.Machine

/-! ## The spans of the fields -/

/-- The ten fields, in the order of R163. -/
def apcFields : List ApcField :=
  [.volume, .monitorInput, .mixInput, .seEditing, .spiFt, .analogOutput, .pwmSpeaker, .puAnalogOutput,
    .voltageAlert, .eomStop]

theorem mem_apcFields (f : ApcField) : f ∈ apcFields := by
  cases f <;> decide

/-- The span of a field: offset and width (R163). -/
def ApcField.span (p : Params) (f : ApcField) : Nat × Nat := (f.offset p, f.width)

theorem spans_eq_map (p : Params) : p.apcOff.spans = apcFields.map (ApcField.span p) := rfl

theorem spansDisjoint_iff (a b : Nat × Nat) :
    spansDisjoint a b = true ↔ a.1 + a.2 ≤ b.1 ∨ b.1 + b.2 ≤ a.1 := by
  simp [spansDisjoint]

theorem pairwiseDisjoint_iff (l : List (Nat × Nat)) :
    pairwiseDisjoint l = true ↔ l.Pairwise (spansDisjoint · · = true) := by
  induction l with
  | nil => simp [pairwiseDisjoint]
  | cons a l ih => simp [pairwiseDisjoint, ih]

/-- Bit `i` of a word belongs to the field. -/
abbrev ApcField.covers (p : Params) (f : ApcField) (i : Nat) : Prop :=
  f.offset p ≤ i ∧ i < f.offset p + f.width

section
variable {p : Params} (hp : p.valid = true)
include hp

theorem apcValid_of_valid : p.apcValid = true := by
  simp only [Params.valid, Bool.and_eq_true] at hp
  obtain ⟨⟨⟨_, hapc⟩, _⟩, _⟩ := hp
  exact hapc

theorem offset_add_width_le (f : ApcField) : f.offset p + f.width ≤ 12 := by
  have hspans := (Bool.and_eq_true_iff.mp (apcValid_of_valid hp)).1
  rw [spans_eq_map, List.all_map, List.all_eq_true] at hspans
  exact of_decide_eq_true (hspans f (mem_apcFields f))

theorem span_disjoint {f g : ApcField} (hne : g ≠ f) : spansDisjoint (f.span p) (g.span p) = true := by
  have hspans := (Bool.and_eq_true_iff.mp (apcValid_of_valid hp)).2
  rw [spans_eq_map, pairwiseDisjoint_iff, List.pairwise_map] at hspans
  have hsymm : Std.Symm fun f g : ApcField => spansDisjoint (f.span p) (g.span p) = true :=
    ⟨fun f g h => (spansDisjoint_iff _ _).mpr ((spansDisjoint_iff _ _).mp h).symm⟩
  exact hspans.forall (mem_apcFields f) (mem_apcFields g) hne.symm

theorem not_covers_of_ne {f g : ApcField} (hne : g ≠ f) {i : Nat} (hg : g.covers p i) : ¬ f.covers p i := by
  have hdisjoint := (spansDisjoint_iff _ _).mp (span_disjoint hp hne)
  simp only [ApcField.span] at hdisjoint
  omega

end

/-! ## Inserting and extracting -/

theorem width_le_three (f : ApcField) : f.width ≤ 3 := by
  cases f <;> decide

theorem getLsbD_ones (f : ApcField) (i : Nat) : f.ones.getLsbD i = decide (i < f.width) := by
  have hones : f.ones = BitVec.ofNat 12 (2 ^ f.width - 1) := by cases f <;> rfl
  have hwidth := width_le_three f
  rw [hones, BitVec.getLsbD_ofNat, Nat.testBit_two_pow_sub_one, ← Bool.decide_and]
  exact decide_eq_decide.mpr (by omega)

theorem getLsbD_mask (p : Params) (f : ApcField) {i : Nat} (h : i < 12) :
    (f.mask p).getLsbD i = decide (f.covers p i) := by
  rw [ApcField.mask, BitVec.getLsbD_shiftLeft, getLsbD_ones, decide_eq_true h, Bool.true_and, ← decide_not,
    ← Bool.decide_and]
  exact decide_eq_decide.mpr (by omega)

/-- The modify step leaves the value at the places of the field, in the wire's polarity, and the word at the others. -/
theorem getLsbD_apcInsert (p : Params) (f : ApcField) (v w : Word12) {i : Nat} (h : i < 12) :
    (apcInsert p f v w).getLsbD i
      = if f.covers p i then (f.polarity v).getLsbD (i - f.offset p) else w.getLsbD i := by
  rw [apcInsert, BitVec.getLsbD_or, BitVec.getLsbD_and, BitVec.getLsbD_and, BitVec.getLsbD_not,
    BitVec.getLsbD_shiftLeft, getLsbD_mask p f h, decide_eq_true h]
  split
  next hin => simp [hin, Nat.not_lt.mpr hin.1]
  next hout => simp [hout]

/-- The field of a word, before its polarity. -/
theorem getLsbD_field (p : Params) (f : ApcField) (w : Word12) (i : Nat) :
    ((w >>> f.offset p) &&& f.ones).getLsbD i = (decide (i < f.width) && w.getLsbD (f.offset p + i)) := by
  rw [BitVec.getLsbD_and, BitVec.getLsbD_ushiftRight, getLsbD_ones, Bool.and_comm]

theorem polarity_polarity (f : ApcField) (v : Word12) : f.polarity (f.polarity v) = v := by
  unfold ApcField.polarity
  split
  · rw [BitVec.xor_assoc, BitVec.xor_self, BitVec.xor_zero]
  · rfl

/-- A legal value has no bit beyond its field's width, in either polarity. -/
theorem getLsbD_polarity_of_le {f : ApcField} {v : Word12} (hv : v.toNat < 2 ^ f.width) {i : Nat}
    (hi : f.width ≤ i) : (f.polarity v).getLsbD i = false := by
  have hvi : v.getLsbD i = false :=
    Nat.testBit_eq_false_of_lt (hv.trans_le (Nat.pow_le_pow_right (by decide) hi))
  unfold ApcField.polarity
  split
  · rw [BitVec.getLsbD_xor, hvi, getLsbD_ones, decide_eq_false (by omega), Bool.false_xor]
  · exact hvi

theorem apcExtract_apcInsert_self {p : Params} (hp : p.valid = true) {f : ApcField} {v : Word12}
    (hv : v.toNat < 2 ^ f.width) (w : Word12) : apcExtract p f (apcInsert p f v w) = v := by
  have hfit := offset_add_width_le hp f
  suffices hfield : (apcInsert p f v w >>> f.offset p) &&& f.ones = f.polarity v by
    rw [apcExtract, hfield, polarity_polarity]
  apply BitVec.eq_of_getLsbD_eq
  intro i _
  rw [getLsbD_field]
  rcases Nat.lt_or_ge i f.width with hi | hi
  · rw [getLsbD_apcInsert _ _ _ _ (by omega), if_pos (by omega), decide_eq_true hi, Bool.true_and,
      Nat.add_sub_cancel_left]
  · rw [getLsbD_polarity_of_le hv hi, decide_eq_false (by omega), Bool.false_and]

theorem apcExtract_apcInsert_of_ne {p : Params} (hp : p.valid = true) {f g : ApcField} (hne : g ≠ f)
    (v w : Word12) : apcExtract p g (apcInsert p f v w) = apcExtract p g w := by
  have hfit := offset_add_width_le hp g
  rw [apcExtract, apcExtract]
  congr 1
  apply BitVec.eq_of_getLsbD_eq
  intro i _
  rw [getLsbD_field, getLsbD_field]
  by_cases hi : i < g.width
  · rw [getLsbD_apcInsert _ _ _ _ (by omega), if_neg (not_covers_of_ne hp hne (by omega))]
  · rw [decide_eq_false hi, Bool.false_and, Bool.false_and]

theorem apcInsert_and_not_mask (p : Params) (f : ApcField) (v w : Word12) :
    apcInsert p f v w &&& ~~~(f.mask p) = w &&& ~~~(f.mask p) := by
  apply BitVec.eq_of_getLsbD_eq
  intro i h
  rw [BitVec.getLsbD_and, BitVec.getLsbD_and, BitVec.getLsbD_not, getLsbD_mask p f h, getLsbD_apcInsert p f v w h]
  split
  next hin => simp [hin]
  next => rfl

/-- Settles O36: each clause compares the bits that `getLsbD_apcInsert` names. -/
theorem fieldInsertAndExtractAgree : Obligations.FieldInsertAndExtractAgree :=
  fun p f _ v w hp hv => ⟨apcInsert_and_not_mask p f v w, apcExtract_apcInsert_self hp hv w,
    fun hne => apcExtract_apcInsert_of_ne hp hne v w⟩

end Sys2Proof.Machine
end

section
/-! Proofs. The operations on the APC word (42_apc_accessors.md). `Accessed` is all that a part of such an operation
does; `readModifyWrite` is what the ten setters and SET_VOLUME_CONTROL have in common, its outcomes said once; and an
operation is the end (`gated_ends_ok`, `gated_ends_err`) of the state its body comes to. -/

namespace Sys2Proof.Machine

/-! ## What a part of an APC operation does -/

/-- `t` is `s` after an access to the APC word with the events `es`: `APC_TMP` holds `w`. Only the frame buffers, the
sequencer and the result are left open. -/
structure Accessed (s : State) (w : Word12) (es : List Event) (t : State) : Prop where
  handle : handleKept s t
  status : statusKept s t
  inst : instanceKept s t
  cnt : t.timeoutCnt = s.timeoutCnt
  apcTmp : t.apcTmp = w
  hang : t.hang = s.hang
  trace : t.trace = s.trace ++ es

namespace Accessed

theorem exchanged (s : State) (tx : List Byte) : Accessed s s.apcTmp [s.xferAt 0 tx] (s.exchanged tx) :=
  ⟨by simp [handleKept], by simp [statusKept], by simp [instanceKept], by simp, by simp, by simp, by simp⟩

theorem exchangeFailed (s : State) (tx : List Byte) :
    Accessed s s.apcTmp [.xferFail (tx.map bitrev8)] (s.exchangeFailed tx) :=
  ⟨by simp [handleKept], by simp [statusKept], by simp [instanceKept], by simp, by simp, by simp, by simp⟩

section
variable {s t u : State} {w w' : Word12} {es fs : List Event} (h : Accessed s w es t)
include h

theorem trans (k : Accessed t w' fs u) : Accessed s w' (es ++ fs) u where
  handle := handleKept_trans h.handle k.handle
  status := ⟨k.status.1.trans h.status.1, k.status.2.trans h.status.2⟩
  inst := instanceKept_trans h.inst k.inst
  cnt := k.cnt.trans h.cnt
  apcTmp := k.apcTmp
  hang := k.hang.trans h.hang
  trace := by rw [k.trace, h.trace, List.append_assoc]

theorem setApcTmp (w' : Word12) : Accessed s w' es (t.setApcTmp w') :=
  ⟨h.handle, h.status, h.inst, h.cnt, rfl, h.hang, h.trace⟩

theorem params : t.params = s.params := h.inst.2.2.1

/-- A latch of `VOL_SRC` on both sides. -/
theorem setVolSrc (src : VolSrc) : Accessed (s.setVolSrc src) w es (t.setVolSrc src) where
  handle := by
    obtain ⟨hchip, hend, -, hinit, hint⟩ := h.handle
    exact ⟨hchip, hend, rfl, hinit, hint⟩
  status := h.status
  inst := h.inst
  cnt := h.cnt
  apcTmp := h.apcTmp
  hang := h.hang
  trace := h.trace

theorem endOk (d : Option Data) : Accessed s w es (t.endOk d) where
  handle := handleKept_trans h.handle (by simp [handleKept])
  status := by simpa [statusKept] using h.status
  inst := instanceKept_trans h.inst (by simp [instanceKept])
  cnt := by simpa using h.cnt
  apcTmp := by simpa using h.apcTmp
  hang := by simpa using h.hang
  trace := by simpa using h.trace

theorem endErr (e : ErrCode) : Accessed s w es (t.endErr e) where
  handle := handleKept_trans h.handle (by simp [handleKept])
  status := by simpa [statusKept] using h.status
  inst := instanceKept_trans h.inst (by simp [instanceKept])
  cnt := by simpa using h.cnt
  apcTmp := by simpa using h.apcTmp
  hang := by simpa using h.hang
  trace := by simpa using h.trace

end

/-- The acceptance of the request counts for nothing. -/
theorem of_setSeq {s t : State} {q : SeqState} {w : Word12} {es : List Event} (h : Accessed (s.setSeq q) w es t) :
    Accessed s w es t := ⟨h.handle, h.status, h.inst, h.cnt, h.apcTmp, h.hang, h.trace⟩

theorem commandFrame {s t : State} {es : List Event} (h : Accessed s s.apcTmp es t) : commandFrame s t :=
  ⟨h.handle, h.status, h.inst, h.cnt, h.apcTmp⟩

end Accessed

@[simp] theorem setApcTmp_xferAt (s : State) (w : Word12) (k : Nat) (frame : List Byte) :
    (s.setApcTmp w).xferAt k frame = s.xferAt k frame := rfl

/-! ## `APC_READ` and `APC_WRITE` -/

/-- The word that the read-APC frame at port call `k` delivers, as a number (R85). -/
theorem toNat_apcAt (s : State) (k : Nat) :
    (s.apcAt k).toNat = (s.rxAt k 3).toNat % 16 * 256 + (s.rxAt k 2).toNat := by
  have hhi : ((s.rxAt k 3 &&& 0x0F#8).setWidth 12 <<< 8).toNat = (s.rxAt k 3 &&& 0x0F#8).toNat <<< 8 := by
    have hlt := toNat_and_0x0F (s.rxAt k 3)
    rw [BitVec.toNat_shiftLeft, BitVec.toNat_setWidth, Nat.shiftLeft_eq, Nat.shiftLeft_eq]
    omega
  have hlo : ((s.rxAt k 2).setWidth 12).toNat = (s.rxAt k 2).toNat := BitVec.toNat_setWidth_of_le (by decide)
  rw [State.apcAt, BitVec.toNat_or, hhi, hlo, ← Nat.shiftLeft_add_eq_or_of_lt (s.rxAt k 2).isLt,
    Nat.shiftLeft_eq, toNat_and_0x0F]

theorem encodeWith_rdApc (p : Params) : encodeWith p .rdApc = rd4Frame p 0x44 := padTo_singleton ..

theorem rxApc_exchanged {s : State} (hp : s.params.valid = true) :
    rxApc (s.exchanged (rd4Frame s.params 0x44)).rxbuf = s.apcAt 0 := by
  obtain ⟨hlo, hhi⟩ := lRd4_bounds hp
  have hlen := length_rd4Frame s.params hp 0x44
  have hrx : ∀ i : Fin 7, i.val < 4 → (s.exchanged (rd4Frame s.params 0x44)).rxbuf[i] = s.rxAt 0 i :=
    fun i hi => exchanged_rxbuf s (by omega) i (by omega)
  have h2 : (s.exchanged (rd4Frame s.params 0x44)).rxbuf[2] = s.rxAt 0 2 := hrx 2 (by decide)
  have h3 : (s.exchanged (rd4Frame s.params 0x44)).rxbuf[3] = s.rxAt 0 3 := hrx 3 (by decide)
  rw [rxApc, h2, h3, State.apcAt]

/-- The state after a read-APC frame that succeeded (R160). -/
def State.apcFetched (s : State) : State := (s.exchanged (rd4Frame s.params 0x44)).setApcTmp (s.apcAt 0)

theorem apcFetched_accessed (s : State) :
    Accessed s (s.apcAt 0) [s.xferAt 0 (rd4Frame s.params 0x44)] s.apcFetched :=
  (Accessed.exchanged s _).setApcTmp _

section
variable {s : State} (hh : s.hang = none) (hp : s.params.valid = true)
include hh hp

theorem apcRead_ok (ha : (s.answerAt 0).ok = true) : apcRead s = .ok s.apcFetched := by
  rw [apcRead, sendFrame_ok s _ hh hp ha, encodeWith_rdApc, andThen_ok, rxApc_exchanged hp, State.apcFetched]

theorem apcRead_failed (ha : (s.answerAt 0).ok = false) :
    apcRead s = .err .communicationFailure (s.exchangeFailed (rd4Frame s.params 0x44)) := by
  rw [apcRead, sendFrame_failed s _ hh hp ha, encodeWith_rdApc, andThen_err]

/-- The opcode of `VOL_SRC` is that of the row with its name (R162). -/
theorem apcWrite_ok (w : Word12) (src : VolSrc) (ha : (s.answerAt 0).ok = true) :
    apcWrite w src s = .ok (s.exchanged (wr3Frame (writeOpcode src) w)) := by
  cases src with
  | button => exact sendFrame_ok s (.wrApcBtn w) hh hp ha
  | register => exact sendFrame_ok s (.wrApcReg w) hh hp ha

theorem apcWrite_failed (w : Word12) (src : VolSrc) (ha : (s.answerAt 0).ok = false) :
    apcWrite w src s = .err .communicationFailure (s.exchangeFailed (wr3Frame (writeOpcode src) w)) := by
  cases src with
  | button => exact sendFrame_failed s (.wrApcBtn w) hh hp ha
  | register => exact sendFrame_failed s (.wrApcReg w) hh hp ha

end

/-! ## Read, modify, write -/

/-- Read the word, change it, and write it back by the opcode of `src` (R164, R186). -/
def readModifyWrite (modify : Word12 → Word12) (src : VolSrc) (s : State) : Res :=
  (apcRead s).andThen fun s => apcWrite (modify s.apcTmp) src (s.setApcTmp (modify s.apcTmp))

/-- A setter changes its field and writes by the handle's opcode, neither of which its read changes. -/
theorem apcFieldSet_eq_readModifyWrite (f : ApcField) (v : Word12) (s : State) :
    apcFieldSet f v s = readModifyWrite (apcInsert s.params f v) s.volSrc s := by
  have hquiet := apcRead_sat s
  unfold apcFieldSet readModifyWrite
  cases hread : apcRead s with
  | ok t =>
      rw [hread] at hquiet
      obtain ⟨-, -, hvol, -, -⟩ := hquiet.handle
      obtain ⟨-, -, hparams, -⟩ := hquiet.inst
      simp only [andThen_ok, hvol, hparams]
  | err e t => rfl
  | stuck => rfl

/-! ## The ends of an operation -/

section
variable {s r u : State} {body : State → Res} {data : State → Option Data} {w : Word12} {es : List Event}
variable (hseq : s.seq = .idle) (hinit : s.initialized = true) (haccess : Accessed r w es u)
include hseq hinit haccess

theorem gated_ends_ok (hbody : body (s.setSeq .commandIssued) = .ok u) :
    ∃ t, gated body data s = .next t ∧ endedWith t .ok ∧ Accessed r w es t
      ∧ ∀ d, data u = some d → t.rdata = d := by
  refine ⟨u.endOk (data u), ?_, (endedAt_endOk u _).ended, haccess.endOk _, fun d hd => by rw [hd]; rfl⟩
  rw [gated_of_initialized hseq hinit, hbody]
  rfl

theorem gated_ends_err {e : ErrCode} (hbody : body (s.setSeq .commandIssued) = .err e u) :
    ∃ t, gated body data s = .next t ∧ endedWith t e ∧ Accessed r w es t := by
  refine ⟨u.endErr e, ?_, (endedAt_endErr e u).ended, haccess.endErr e⟩
  rw [gated_of_initialized hseq hinit, hbody]
  rfl

end

theorem gated_firstFrameFails {s : State} {body : State → Res} {data : State → Option Data} {tx : List Byte}
    (hseq : s.seq = .idle) (hinit : s.initialized = true)
    (hbody : body (s.setSeq .commandIssued)
      = .err .communicationFailure ((s.setSeq .commandIssued).exchangeFailed tx)) :
    ∃ t, gated body data s = .next t ∧ endedWith t .communicationFailure ∧ commandFrame s t
      ∧ t.trace = s.trace ++ [.xferFail (tx.map bitrev8)] := by
  have haccess := (Accessed.exchangeFailed (s.setSeq .commandIssued) tx).of_setSeq
  obtain ⟨t, ht, hend, h⟩ := gated_ends_err hseq hinit haccess hbody
  exact ⟨t, ht, hend, h.commandFrame, h.trace⟩

/-- An operation that begins with `APC_READ` ends where that raises (R275). -/
theorem gated_readFails {s : State} {body : State → Res} {data : State → Option Data} (hs : s.ready)
    (ha : (s.answerAt 0).ok = false)
    (hbody : ∀ e u, apcRead (s.setSeq .commandIssued) = .err e u → body (s.setSeq .commandIssued) = .err e u) :
    ∃ t, gated body data s = .next t ∧ endedWith t .communicationFailure ∧ commandFrame s t
      ∧ t.trace = s.trace ++ [.xferFail ((rd4Frame s.params 0x44).map bitrev8)] := by
  obtain ⟨hseq, hinit, hp, hh⟩ := hs
  exact gated_firstFrameFails hseq hinit (hbody _ _ (apcRead_failed (s := s.setSeq .commandIssued) hh hp ha))

theorem gated_of_not_initialized {s : State} {body : State → Res} {data : State → Option Data}
    (hseq : s.seq = .idle) (hinit : s.initialized = false) :
    gated body data s = .next ((s.setSeq .commandIssued).endErr .notInitialized) := by
  simp [gated, operation, requireInit, finish, hseq, hinit]

theorem nothingDone_setSeq_endErr (s : State) (q : SeqState) (e : ErrCode) :
    nothingDone s ((s.setSeq q).endErr e) := by
  simp [nothingDone, handleKept, statusKept, instanceKept, buffersKept]

theorem nothingDone_setSeq_endOk (s : State) (q : SeqState) (d : Option Data) :
    nothingDone s ((s.setSeq q).endOk d) := by
  simp [nothingDone, handleKept, statusKept, instanceKept, buffersKept]

/-! ## The outcomes of a read-modify-write -/

section
variable {s : State} {modify : Word12 → Word12} {src : VolSrc} (hh : s.hang = none) (hp : s.params.valid = true)
include hh hp

theorem readModifyWrite_of_read (ha : (s.answerAt 0).ok = true) :
    readModifyWrite modify src s
      = apcWrite (modify (s.apcAt 0)) src (s.apcFetched.setApcTmp (modify (s.apcAt 0))) := by
  rw [readModifyWrite, apcRead_ok hh hp ha, andThen_ok, (apcFetched_accessed s).apcTmp]

theorem readModifyWrite_ok (hports : s.portsOk 2) :
    ∃ u, readModifyWrite modify src s = .ok u
      ∧ Accessed s (modify (s.apcAt 0)) [s.xferAt 0 (rd4Frame s.params 0x44),
          s.xferAt 1 (wr3Frame (writeOpcode src) (modify (s.apcAt 0)))] u := by
  have hread := (apcFetched_accessed s).setApcTmp (modify (s.apcAt 0))
  have hwrite := hports 1 (by omega)
  rw [readModifyWrite_of_read hh hp (hports 0 (by omega)),
    apcWrite_ok (hread.hang.trans hh) (hread.params ▸ hp) _ _ (by simpa [State.apcFetched] using hwrite)]
  exact ⟨_, rfl, by simpa [State.apcFetched] using hread.trans (.exchanged _ _)⟩

theorem readModifyWrite_writeFails (h0 : (s.answerAt 0).ok = true) (h1 : (s.answerAt 1).ok = false) :
    ∃ u, readModifyWrite modify src s = .err .communicationFailure u
      ∧ Accessed s (modify (s.apcAt 0)) [s.xferAt 0 (rd4Frame s.params 0x44),
          .xferFail ((wr3Frame (writeOpcode src) (modify (s.apcAt 0))).map bitrev8)] u := by
  have hread := (apcFetched_accessed s).setApcTmp (modify (s.apcAt 0))
  rw [readModifyWrite_of_read hh hp h0,
    apcWrite_failed (hread.hang.trans hh) (hread.params ▸ hp) _ _ (by simpa [State.apcFetched] using h1)]
  exact ⟨_, rfl, hread.trans (.exchangeFailed _ _)⟩

end

/-! The same of an operation whose body is a read-modify-write and a rest `k`. -/

section
variable {s : State} {body : State → Res} {data : State → Option Data} {modify : Word12 → Word12} {src : VolSrc}
variable {k : State → Res} (hs : s.ready)
variable (hbody : body (s.setSeq .commandIssued)
  = (readModifyWrite modify src (s.setSeq .commandIssued)).andThen k)
include hs hbody

theorem readModifyWriteBody_ok (hports : s.portsOk 2) :
    ∃ u, body (s.setSeq .commandIssued) = k u
      ∧ Accessed s (modify (s.apcAt 0)) [s.xferAt 0 (rd4Frame s.params 0x44),
          s.xferAt 1 (wr3Frame (writeOpcode src) (modify (s.apcAt 0)))] u := by
  obtain ⟨_, _, hp, hh⟩ := hs
  obtain ⟨u, hu, haccess⟩ :=
    readModifyWrite_ok (s := s.setSeq .commandIssued) (modify := modify) (src := src) hh hp hports
  exact ⟨u, by rw [hbody, hu, andThen_ok], haccess.of_setSeq⟩

theorem gated_writeFails (h0 : (s.answerAt 0).ok = true) (h1 : (s.answerAt 1).ok = false) :
    ∃ t, gated body data s = .next t ∧ endedWith t .communicationFailure
      ∧ Accessed s (modify (s.apcAt 0)) [s.xferAt 0 (rd4Frame s.params 0x44),
          .xferFail ((wr3Frame (writeOpcode src) (modify (s.apcAt 0))).map bitrev8)] t := by
  obtain ⟨hseq, hinit, hp, hh⟩ := hs
  obtain ⟨u, hu, haccess⟩ :=
    readModifyWrite_writeFails (s := s.setSeq .commandIssued) (modify := modify) (src := src) hh hp h0 h1
  exact gated_ends_err hseq hinit haccess.of_setSeq (by rw [hbody, hu, andThen_err])

end

/-! ## The setters and the getters -/

theorem eq_zero_or_one {v : Word12} (hv : v.toNat < 2) : v = 0 ∨ v = 1 := by
  have hcases : v.toNat = 0 ∨ v.toNat = 1 := by omega
  exact hcases.imp BitVec.eq_of_toNat_eq BitVec.eq_of_toNat_eq

/-- A one-bit value comes back from a bool operand. -/
theorem boolField_beq_one {v : Word12} (hv : v.toNat < 2) : boolField (v == 1) = v := by
  obtain rfl | rfl := eq_zero_or_one hv <;> rfl

/-- A one-bit value comes back from a route operand. -/
theorem setWidth_one_setWidth {v : Word12} (hv : v.toNat < 2) : (v.setWidth 1).setWidth 12 = v := by
  obtain rfl | rfl := eq_zero_or_one hv <;> rfl

/-- A level that passes the check of SET_VOLUME comes back from its byte (R166). -/
theorem setVolume_level {v : Word12} (hv : v.toNat < 8) :
    ¬ v.setWidth 8 > (7 : Byte) ∧ ((v.setWidth 8).setWidth 12 &&& 7 : Word12) = v := by
  have hbyte : (v.setWidth 8).toNat = v.toNat := by rw [BitVec.toNat_setWidth]; omega
  refine ⟨?_, BitVec.eq_of_toNat_eq ?_⟩
  · have hseven : (7 : Byte).toNat = 7 := rfl
    rw [gt_iff_lt, BitVec.lt_def, hbyte]
    omega
  · have hmask : (v.toNat &&& 7) = v.toNat % 8 := Nat.and_two_pow_sub_one_eq_mod v.toNat 3
    rw [BitVec.toNat_and, BitVec.toNat_setWidth_of_le (by decide), hbyte]
    exact hmask.trans (Nat.mod_eq_of_lt hv)

/-- Every setter is the generic one (R164): its operand, of whatever type, carries the field's value. -/
theorem execHost_setterOf {f : ApcField} {v : Word12} (hv : v.toNat < 2 ^ f.width) (s : State) :
    execHost (setterOf f v) s = hostFieldSet f v s := by
  cases f with
  | volume =>
      obtain ⟨hlevel, hword⟩ := setVolume_level hv
      simp only [setterOf, execHost, hostSetVolume, if_neg hlevel, hword]
      rfl
  | analogOutput => exact congrArg (hostFieldSet .analogOutput · s) (setWidth_one_setWidth hv)
  | monitorInput | mixInput | seEditing | spiFt | pwmSpeaker | puAnalogOutput | voltageAlert | eomStop =>
      exact congrArg (hostFieldSet _ · s) (boolField_beq_one hv)

theorem execHost_getterOf (f : ApcField) (s : State) : execHost (getterOf f) s = hostFieldGet f s := by
  cases f <;> rfl

/-- No field accessor of the printed table has a post-check (R200). -/
theorem printed_fields (f : ApcField) :
    PostChecks.printed.setField[f.index] = .nothing ∧ PostChecks.printed.getField[f.index] = .nothing := by
  cases f <;> exact ⟨rfl, rfl⟩

theorem runPostCheck_nothing (s : State) : runPostCheck .nothing s = .ok s := rfl

theorem checkedFieldSet_eq (f : ApcField) (v : Word12) (s : State) :
    checkedFieldSet f v s = (readModifyWrite (apcInsert s.params f v) s.volSrc s).andThen
      (runPostCheck s.params.postCheck.setField[f.index]) := by
  rw [checkedFieldSet, apcFieldSet_eq_readModifyWrite]

theorem hostFieldSet_ok {s : State} (hs : s.asPrinted) (hports : s.portsOk 2) (f : ApcField) (v : Word12) :
    ∃ t, hostFieldSet f v s = .next t ∧ endedWith t .ok
      ∧ Accessed s (apcInsert s.params f v (s.apcAt 0)) [s.xferAt 0 (rd4Frame s.params 0x44),
          s.xferAt 1 (wr3Frame (writeOpcode s.volSrc) (apcInsert s.params f v (s.apcAt 0)))] t := by
  obtain ⟨hready, hprinted⟩ := hs
  obtain ⟨u, hu, haccess⟩ := readModifyWriteBody_ok hready (checkedFieldSet_eq f v _) hports
  rw [State.setSeq_params, hprinted, (printed_fields f).1, runPostCheck_nothing] at hu
  obtain ⟨t, ht, hend, haccess', -⟩ := gated_ends_ok (data := noData) hready.1 hready.2.1 haccess hu
  exact ⟨t, ht, hend, haccess'⟩

theorem hostFieldGet_ok {s : State} (hs : s.asPrinted) (ha : (s.answerAt 0).ok = true) (f : ApcField) :
    ∃ t, hostFieldGet f s = .next t ∧ endedWith t .ok
      ∧ Accessed s (s.apcAt 0) [s.xferAt 0 (rd4Frame s.params 0x44)] t
      ∧ t.rdata = (apcExtract s.params f (s.apcAt 0)).setWidth 16 := by
  obtain ⟨⟨hseq, hinit, hp, hh⟩, hprinted⟩ := hs
  have hread : apcRead (s.setSeq .commandIssued) = .ok (s.setSeq .commandIssued).apcFetched :=
    apcRead_ok (s := s.setSeq .commandIssued) hh hp ha
  have haccess := (apcFetched_accessed (s.setSeq .commandIssued)).of_setSeq
  obtain ⟨t, ht, hend, haccess', hdata⟩ := gated_ends_ok
    (body := fun u => (apcRead u).andThen (runPostCheck u.params.postCheck.getField[f.index]))
    (data := fun u => some ((apcExtract u.params f u.apcTmp).setWidth 16)) hseq hinit haccess
    (by rw [hread, andThen_ok, State.setSeq_params, hprinted, (printed_fields f).2, runPostCheck_nothing])
  exact ⟨t, ht, hend, haccess', by rw [hdata _ rfl, haccess.params, haccess.apcTmp]; rfl⟩

/-! ## SET_VOLUME_CONTROL -/

/-- The body of SET_VOLUME_CONTROL (R186). -/
def volumeControlBody (src : VolSrc) (s : State) : Res :=
  (((apcRead s).andThen fun s => apcWrite s.apcTmp src s).andThen
    (runPostCheck s.params.postCheck.setVolumeControl)).andThen fun s => .ok (s.setVolSrc src)

theorem execHost_setVolumeControl (src : VolSrc) (s : State) :
    execHost (.setVolumeControl src) s = gated (volumeControlBody src) noData s := rfl

/-- Its frames are a read-modify-write that changes nothing. -/
theorem volumeControlBody_eq (src : VolSrc) (s : State) :
    volumeControlBody src s = (readModifyWrite id src s).andThen fun t =>
      (runPostCheck s.params.postCheck.setVolumeControl t).andThen fun t => .ok (t.setVolSrc src) :=
  andThen_assoc _ _ _

/-! ## The rows that write the word, and WRITE_APC -/

/-- An operation that is one APC write and its post-check (R161, R168), at the printed table. -/
theorem gated_apcWrite_ok {s : State} {body : State → Res} {w : Word12} {src : VolSrc} (hs : s.asPrinted)
    (ha : (s.answerAt 0).ok = true)
    (hbody : body (s.setSeq .commandIssued)
      = (apcWrite w src (s.setSeq .commandIssued)).andThen (runPostCheck s.params.postCheck.writeApc)) :
    ∃ t, gated body noData s = .next t ∧ endedWith t .ok ∧ commandFrame s t
      ∧ t.trace = s.trace ++ [s.xferAt 0 (wr3Frame (writeOpcode src) w)] := by
  obtain ⟨⟨hseq, hinit, hp, hh⟩, hprinted⟩ := hs
  have hwrite := apcWrite_ok (s := s.setSeq .commandIssued) hh hp w src ha
  have haccess := (Accessed.exchanged (s.setSeq .commandIssued) (wr3Frame (writeOpcode src) w)).of_setSeq
  rw [hwrite, andThen_ok, hprinted] at hbody
  obtain ⟨t, ht, hend, h, -⟩ := gated_ends_ok (data := noData) hseq hinit haccess hbody
  exact ⟨t, ht, hend, h.commandFrame, h.trace⟩

/-! ## READ_APC at any table: no post-check writes `APC_TMP` -/

/-- `APC_TMP` is unchanged. -/
def apcTmpKept (s t : State) : Prop := t.apcTmp = s.apcTmp

theorem apcTmp_chain {r : Res} {k : State → Res} {s : State} (h : r.sat (apcTmpKept s))
    (hk : ∀ t, (k t).sat (apcTmpKept t)) : (r.andThen k).sat (apcTmpKept s) :=
  Res.sat_chain (R := apcTmpKept) (fun h k => k.trans h) h hk

theorem portReturns_apcTmp (s : State) : (portReturns s).sat (apcTmpKept s) :=
  Res.sat_mono (portReturns_quiet s) fun _ ⟨_, h⟩ => h ▸ rfl

theorem exchange_apcTmp (s : State) : (exchange s).sat (apcTmpKept s) := by
  refine apcTmp_chain (portReturns_apcTmp s) fun t => ?_
  split <;> simp [apcTmpKept]

theorem sendFrame_apcTmp (i : Instr) (s : State) : (sendFrame i s).sat (apcTmpKept s) :=
  exchange_apcTmp (s.loadFrame (encodeWith s.params i))

theorem delay_apcTmp (ms : Nat) (s : State) : (delay ms s).sat (apcTmpKept s) := by
  unfold delay
  split
  · rfl
  · exact apcTmp_chain (portReturns_apcTmp s) fun _ => rfl

theorem statusRead_apcTmp (settle : Nat) (s : State) : (statusRead settle s).sat (apcTmpKept s) := by
  refine apcTmp_chain (sendFrame_apcTmp .rdStatus s) fun t => ?_
  split
  · exact apcTmp_chain (sendFrame_apcTmp .clrInt t.latchStatus) (delay_apcTmp settle)
  · rfl

theorem checkCmdErr_apcTmp (s : State) : (checkCmdErr s).sat (apcTmpKept s) := by
  unfold checkCmdErr
  split <;> rfl

theorem pollLoop_apcTmp (mask : Byte) (settle n : Nat) (s : State) :
    (pollLoop mask settle n s).sat (apcTmpKept s) := by
  induction n generalizing s with
  | zero => rfl
  | succ n ih =>
      refine apcTmp_chain (apcTmp_chain (statusRead_apcTmp settle s) checkCmdErr_apcTmp) fun t => ?_
      split
      · rfl
      · exact apcTmp_chain (delay_apcTmp 10 t) fun _ => ih _

theorem runPostCheck_apcTmp (c : PostCheck) (s : State) : (runPostCheck c s).sat (apcTmpKept s) := by
  cases c with
  | nothing => rfl
  | settle ms => exact delay_apcTmp ms s
  | errorCheck settle =>
      exact apcTmp_chain (apcTmp_chain (delay_apcTmp settle s) (statusRead_apcTmp settle)) checkCmdErr_apcTmp
  | poll mask timeout settle =>
      exact apcTmp_chain (delay_apcTmp settle s) fun _ => pollLoop_apcTmp _ _ _ _

/-- What READ_APC does first (R160), whatever its table. -/
theorem readApcBody_eq {s : State} (hh : s.hang = none) (hp : s.params.valid = true)
    (ha : (s.answerAt 0).ok = true) :
    (apcRead (s.setSeq .commandIssued)).andThen (runPostCheck s.params.postCheck.readApc)
      = runPostCheck s.params.postCheck.readApc (s.setSeq .commandIssued).apcFetched := by
  rw [apcRead_ok (s := s.setSeq .commandIssued) hh hp ha, andThen_ok]

/-- READ_APC that ends in `Ok` has the word of its own frame in `APC_TMP`, and delivers it. -/
theorem readApc_delivers {s t : State} (hs : s.ready) (ha : (s.answerAt 0).ok = true)
    (hexec : exec .rdApc s = .next t) (hok : t.result = .ok) :
    t.apcTmp = s.apcAt 0 ∧ t.rdata = (s.apcAt 0).setWidth 16 := by
  obtain ⟨hseq, hinit, hp, hh⟩ := hs
  have hends := apcReadChecked_ends s.params.postCheck.readApc (s.setSeq .commandIssued) rfl
  have hkept := runPostCheck_apcTmp s.params.postCheck.readApc (s.setSeq .commandIssued).apcFetched
  have hfinish : exec .rdApc s
      = finish ((apcRead (s.setSeq .commandIssued)).andThen (runPostCheck s.params.postCheck.readApc))
          fun u => some (u.apcTmp.setWidth 16) := gated_of_initialized hseq hinit
  rw [readApcBody_eq hh hp ha] at hends hfinish
  rw [hfinish] at hexec
  cases hcheck : runPostCheck s.params.postCheck.readApc (s.setSeq .commandIssued).apcFetched with
  | ok u =>
      rw [hcheck] at hexec hkept
      have hword : u.apcTmp = s.apcAt 0 := hkept
      obtain rfl : u.endOk (some (u.apcTmp.setWidth 16)) = t := Host.Outcome.next.inj hexec
      exact ⟨by simp [hword], by simp [hword]⟩
  | err e u =>
      rw [hcheck] at hexec hends
      obtain rfl : u.endErr e = t := Host.Outcome.next.inj hexec
      exact absurd ((State.endErr_result u e).symm.trans hok) (raisedAt_ne_ok hends.2)
  | stuck =>
      rw [hcheck] at hexec
      cases hexec

/-- READ_APC at the printed table. -/
theorem readApc_ok {s : State} (hs : s.asPrinted) (ha : (s.answerAt 0).ok = true) :
    ∃ t, exec .rdApc s = .next t ∧ endedWith t .ok
      ∧ Accessed s (s.apcAt 0) [s.xferAt 0 (rd4Frame s.params 0x44)] t := by
  obtain ⟨⟨hseq, hinit, hp, hh⟩, hprinted⟩ := hs
  have hbody := readApcBody_eq hh hp ha
  rw [hprinted] at hbody
  have haccess := (apcFetched_accessed (s.setSeq .commandIssued)).of_setSeq
  obtain ⟨t, ht, hend, h, -⟩ := gated_ends_ok
    (body := fun u => (apcRead u).andThen (runPostCheck (postCheckOf u.params .rdApc)))
    (data := fun u => some (u.apcTmp.setWidth 16)) hseq hinit haccess
    (by rw [State.setSeq_params, postCheckOf, hprinted]; exact hbody)
  exact ⟨t, ht, hend, h⟩

/-! ## The obligations -/

/-- Settles O38: a setter is the generic one, a read-modify-write by the handle's opcode. -/
theorem fieldSettersReadModifyWrite : Obligations.FieldSettersReadModifyWrite := by
  intro s f v hv
  rw [execHost_setterOf hv]
  refine ⟨fun hs hports => ?_, fun hs ha => ?_, fun hs h0 h1 => ?_⟩
  · obtain ⟨t, ht, hend, h⟩ := hostFieldSet_ok hs hports f v
    exact ⟨t, ht, hend, h.trace, h.apcTmp, h.handle, h.status, h.inst, h.cnt⟩
  · exact gated_readFails hs ha fun e u hread => by rw [checkedFieldSet, apcFieldSet, hread]; rfl
  · obtain ⟨t, ht, hend, h⟩ := gated_writeFails (data := noData) hs (checkedFieldSet_eq f v _) h0 h1
    exact ⟨t, ht, hend, h.trace, h.apcTmp, h.handle, h.status, h.inst, h.cnt⟩

/-- Settles O39: a getter is the generic one, a read whose data is extracted from `APC_TMP`. -/
theorem fieldGettersReadOnce : Obligations.FieldGettersReadOnce := by
  intro s f
  rw [execHost_getterOf]
  refine ⟨fun hs ha => ?_, fun hs ha => gated_readFails hs ha fun e u hread => by rw [hread, andThen_err]⟩
  obtain ⟨t, ht, hend, h, hdata⟩ := hostFieldGet_ok hs ha f
  exact ⟨t, ht, hend, hdata, h.apcTmp, h.trace, h.handle, h.status, h.inst, h.cnt⟩

/-- Settles O40: the setter leaves a ready engine, whose next read gives the word with the field inserted, and
extracting what was inserted gives the value. -/
theorem setThenGetReturnsTheValue : Obligations.SetThenGetReturnsTheValue := by
  intro s t f v hs hports hv hchip hset hanswer
  have ⟨⟨_, _, hp, hh⟩, hprinted⟩ := hs
  rw [execHost_setterOf hv] at hset
  obtain ⟨t', ht', hend, h⟩ := hostFieldSet_ok hs (fun k hk => hports k (by omega)) f v
  obtain rfl : t' = t := Host.Outcome.next.inj (ht'.symm.trans hset)
  obtain ⟨-, -, -, hinit, -⟩ := h.handle
  have hready : t'.asPrinted :=
    ⟨⟨hend.2, hinit.trans hs.1.2.1, h.params ▸ hp, h.hang.trans hh⟩, h.params ▸ hprinted⟩
  have hword : t'.apcAt 0 = apcInsert s.params f v (s.apcAt 0) := by
    rw [← hchip]
    simp only [State.apcAt, State.rxAt, hanswer]
  obtain ⟨u, hu, hend', -, hdata⟩ := hostFieldGet_ok hready (hanswer ▸ hports 2 (by omega)) f
  refine ⟨u, by rw [execHost_getterOf, hu], hend', ?_⟩
  rw [hdata, hword, h.params, apcExtract_apcInsert_self hp hv]

/-- Settles O41: `VOL_SRC` is written where the read-modify-write and its post-check have gone on, so a failed frame
comes before it. -/
theorem volumeControlLatchesAfterItsWrite : Obligations.VolumeControlLatchesAfterItsWrite := by
  intro s src
  rw [execHost_setVolumeControl]
  refine ⟨fun hs hports => ?_, fun hs ha => ?_, fun hs h0 h1 => ?_, fun hseq hinit => ?_⟩
  · obtain ⟨hready, hprinted⟩ := hs
    obtain ⟨u, hu, haccess⟩ := readModifyWriteBody_ok hready (volumeControlBody_eq src _) hports
    rw [State.setSeq_params, hprinted] at hu
    obtain ⟨t, ht, hend, h, -⟩ :=
      gated_ends_ok (data := noData) hready.1 hready.2.1 (haccess.setVolSrc src) hu
    obtain ⟨hchip, hendAddress, hvol, hinit, hint⟩ := h.handle
    exact ⟨t, ht, hend, hvol, h.apcTmp, h.trace, hchip, hendAddress, hinit, hint, h.status, h.inst, h.cnt⟩
  · exact gated_readFails hs ha fun e u hread => by rw [volumeControlBody, hread]; rfl
  · obtain ⟨t, ht, hend, h⟩ := gated_writeFails (data := noData) hs (volumeControlBody_eq src _) h0 h1
    exact ⟨t, ht, hend, h.trace, h.apcTmp, h.handle, h.status, h.inst, h.cnt⟩
  · exact ⟨_, gated_of_not_initialized hseq hinit, (endedAt_endErr _ _).ended, nothingDone_setSeq_endErr s _ _⟩

/-- Settles O27: the word is in `APC_TMP` before any post-check, and none writes that register. -/
theorem readApcDeliversTwelveBits : Obligations.ReadApcDeliversTwelveBits := by
  intro s hs ha
  have hdelivers : ∀ t, exec .rdApc s = .next t → t.result = .ok →
      t.rdata.toNat = (s.rxAt 0 3).toNat % 16 * 256 + (s.rxAt 0 2).toNat ∧ t.apcTmp.setWidth 16 = t.rdata := by
    intro t ht hok
    obtain ⟨hword, hdata⟩ := readApc_delivers hs ha ht hok
    rw [hdata, hword, BitVec.toNat_setWidth_of_le (by decide), toNat_apcAt]
    exact ⟨rfl, rfl⟩
  refine ⟨fun hprinted => ?_, hdelivers⟩
  obtain ⟨t, ht, hend, h⟩ := readApc_ok ⟨hs, hprinted⟩ ha
  obtain ⟨hdata, hword⟩ := hdelivers t ht hend.1
  exact ⟨t, ht, hend, hdata, hword, h.trace, h.handle, h.status, h.inst, h.cnt⟩

/-- Settles O28: each row is `APC_WRITE` with the source whose opcode is the row's. -/
theorem apcWriteRowsSendTheWord : Obligations.ApcWriteRowsSendTheWord := by
  intro s w row hrow hs ha
  simp only [List.mem_cons, List.not_mem_nil, or_false] at hrow
  obtain rfl | rfl := hrow
  · exact gated_apcWrite_ok (src := .button) hs ha rfl
  · exact gated_apcWrite_ok (src := .register) hs ha rfl

/-- Settles O37: WRITE_APC is `APC_WRITE` with the handle's source. -/
theorem writeApcUsesTheHandlesOpcode : Obligations.WriteApcUsesTheHandlesOpcode := by
  intro s w
  refine ⟨fun hs ha => gated_apcWrite_ok (src := s.volSrc) hs ha rfl, fun ⟨hseq, hinit, hp, hh⟩ ha => ?_⟩
  have hwrite := apcWrite_failed (s := s.setSeq .commandIssued) hh hp w s.volSrc ha
  exact gated_firstFrameFails hseq hinit (by rw [State.setSeq_volSrc, hwrite, andThen_err])

/-- Settles O42: the body is empty and its data is `VOL_SRC`. -/
theorem getVolumeControlExchangesNothing : Obligations.GetVolumeControlExchangesNothing := by
  intro s hseq hinit
  refine ⟨_, gated_of_initialized hseq hinit, (endedAt_endOk _ _).ended, nothingDone_setSeq_endOk s _ _, ?_, ?_⟩
  · intro hbutton
    simp [hbutton, VolSrc.code]
  · intro hregister
    simp [hregister, VolSrc.code]

end Sys2Proof.Machine
end

section
/-! Proofs. The simple commands (43_simple_commands.md). A row is its command frame and then its entry of the post-check
table, so what a row comes to is said once for each kind of entry, whatever the row and the table (`FrameSent`); a
command at the table that R200 prints is the case of its own entry. -/

namespace Sys2Proof.Machine

/-! ## A row is its frame and its post-check -/

/-- The times of a row's entry are numbers of `TW` bits (R5). -/
theorem postCheckOf_fits {p : Params} (hp : p.valid = true) (i : Instr) : (postCheckOf p i).fits p.tw = true := by
  simp only [Params.valid, Params.timesValid, Bool.and_eq_true, List.all_eq_true] at hp
  obtain ⟨⟨-, -, hentries⟩, -⟩ := hp
  cases i with
  | rdStatus => rfl
  | _ => exact hentries _ (by simp [postCheckOf, PostChecks.entries])

/-- The state after the accepted request sent the frame of `i`. -/
def State.commanded (s : State) (i : Instr) : State :=
  (s.setSeq .commandIssued).exchanged (encodeWith s.params i)

theorem commanded_advance (s : State) (i : Instr) :
    Advance s 1 [s.xferAt 0 (encodeWith s.params i)] (s.commanded i) :=
  (Advance.setSeq s .commandIssued).trans (Advance.exchanged _ (encodeWith s.params i))

theorem commanded_statusKept (s : State) (i : Instr) : statusKept s (s.commanded i) := by
  simp [statusKept, State.commanded]

@[simp] theorem commanded_timeoutCnt (s : State) (i : Instr) : (s.commanded i).timeoutCnt = s.timeoutCnt := by
  simp [State.commanded]

/-- The bytes that the frame of `i` received are in `RXBUF` (R122). -/
theorem commanded_rxbuf {s : State} {i : Instr} (hp : s.params.valid = true) (k : Fin 7)
    (hk : k.val < (encodeWith s.params i).length) : (s.commanded i).rxbuf[k] = s.rxAt 0 k :=
  exchanged_rxbuf (s.setSeq .commandIssued) (encodeWith_length_le _ hp i) k hk

theorem sendFrame_commanded {s : State} (i : Instr) (hp : s.params.valid = true) (hh : s.hang = none)
    (ha : (s.answerAt 0).ok = true) : sendFrame i (s.setSeq .commandIssued) = .ok (s.commanded i) :=
  sendFrame_ok (s.setSeq .commandIssued) i hh hp ha

/-- At `s` the row `i` is its command and nothing more, every port call returns, and its frame succeeds. -/
structure FrameSent (i : Instr) (s : State) : Prop where
  runs : ∃ data, exec i s = finish (command i (s.setSeq .commandIssued)) data
  valid : s.params.valid = true
  returns : s.hang = none
  succeeds : (s.answerAt 0).ok = true

theorem frameSent_of_gated {s : State} {i : Instr} (hs : s.ready) (ha : (s.answerAt 0).ok = true)
    (hgated : ∃ data, exec i s = gated (command i) data s) : FrameSent i s := by
  obtain ⟨hseq, hinit, hp, hh⟩ := hs
  obtain ⟨data, hexec⟩ := hgated
  exact ⟨⟨data, hexec.trans (gated_of_initialized hseq hinit)⟩, hp, hh, ha⟩

/-- A range setter whose operands pass the check goes on to its command (R230). -/
theorem rangeCommand_of_legal {s : State} (i : Instr) {a b : Addr} (h : rangeLegal a b s.endAddress = true) :
    rangeCommand i a b s = command i s := by
  simp [rangeCommand, rangeCheck, h]

/-- GET_STATUS has no post-check and READ_APC writes `APC_TMP`; every other row is its command (R200, R215). -/
theorem frameSent_of_row {s : State} {i : Instr} (hstatus : i ≠ .rdStatus) (hapc : i ≠ .rdApc) (hs : s.ready)
    (hacc : s.accepts i) (ha : (s.answerAt 0).ok = true) : FrameSent i s := by
  have ⟨hseq, hinit, hp, hh⟩ := hs
  cases i with
  | rdStatus => exact absurd rfl hstatus
  | rdApc => exact absurd rfl hapc
  | wrApcBtn w | wrApcReg w => exact ⟨⟨noData, gated_of_initialized hseq hinit⟩, hp, hh, ha⟩
  | setPlay a b | setRec a b | setErase a b =>
      have hlegal : rangeLegal a b (s.setSeq .commandIssued).endAddress = true := hacc a b (by simp)
      refine ⟨⟨noData, ?_⟩, hp, hh, ha⟩
      rw [← rangeCommand_of_legal _ hlegal]
      exact gated_of_initialized hseq hinit
  | pu | stop | reset | clrInt | rdPlayPtr | pd | rdRecPtr | rdDevid | play | record | erase | gErase | wrNvcfg
  | ldNvcfg | fwd | chkMem | extclk => exact frameSent_of_gated hs ha ⟨_, rfl⟩

/-! ## The single status read of an error check -/

section
variable {s t : State} {n : Nat} {es : List Event} (h : Advance s n es t) (hh : s.hang = none)
variable (hp : s.params.valid = true) (settle : Nat)
include h hh hp

/-- An error check whose status read is port call `n` (R145). -/
theorem checkNoPoll_reads (hread : (s.answerAt n).ok = true)
    (hclear : s.irqAt n = true → (s.answerAt (n + 1)).ok = true) :
    ∃ u m, checkNoPoll settle t = (if s.cmdErrAt n then .err .chipReportedError u else .ok u)
      ∧ Advance s m (es ++ delayEvents settle ++ s.statusEvents n settle) u
      ∧ latched s u n ∧ u.timeoutCnt = t.timeoutCnt := by
  obtain ⟨u, hu, hadv, hlatched, hcnt⟩ :=
    statusRead_ok_at (h.trans (.afterDelay t settle)) hh hp settle hread hclear
  rw [checkNoPoll, delay_returns (h.hang.trans hh), andThen_ok, hu, andThen_ok, checkCmdErr_of_latched hlatched]
  cases s.cmdErrAt n with
  | true => exact ⟨u.setSeq .commandError, _, rfl, hadv.trans_zero (.setSeq u _), hlatched, hcnt⟩
  | false => exact ⟨u, _, rfl, hadv, hlatched, hcnt⟩

/-- An error check whose status read fails (R142, R274). -/
theorem checkNoPoll_readFails (hfails : s.readFails n) :
    ∃ u m, checkNoPoll settle t = .err .communicationFailure u
      ∧ Advance s m (es ++ delayEvents settle ++ s.failedReadEvents n) u
      ∧ (if (s.answerAt n).ok then latched s u n else statusKept t u) ∧ u.timeoutCnt = t.timeoutCnt := by
  obtain ⟨u, m, hu, hadv, hlatches, hcnt⟩ :=
    statusRead_failed_at (h.trans (.afterDelay t settle)) hh hp settle hfails
  refine ⟨u, m, ?_, hadv, hlatches, hcnt⟩
  rw [checkNoPoll, delay_returns (h.hang.trans hh), andThen_ok, hu]
  rfl

end

/-! ## The wait after the frame -/

theorem le_sampleAt (s : State) (n k : Nat) : n ≤ s.sampleAt n k := by
  induction k with
  | zero => exact le_rfl
  | succ k ih => exact ih.trans (sampleAt_lt_succ s n k).le

theorem runPostCheck_commanded_poll {s : State} {i : Instr} {mask : PollMask} {timeout wait : Nat}
    (hentry : postCheckOf s.params i = .poll mask timeout wait) :
    runPostCheck (postCheckOf s.params i) (s.commanded i)
      = checkPoll (pollByte s.params mask) timeout wait (s.commanded i) := by
  rw [hentry, runPostCheck, (commanded_advance s i).params]

/-- The port calls of a wait that begins after the command frame come after that frame. -/
theorem portsOk_first {s : State} {k : Nat} (h : s.portsOk (s.sampleAt 1 k)) : (s.answerAt 0).ok = true :=
  h 0 (le_sampleAt s 1 k)

/-! ## What a row comes to, by its entry of the table -/

theorem statusKept_trans {a b c : State} (h : statusKept a b) (k : statusKept b c) : statusKept a c :=
  ⟨k.1.trans h.1, k.2.trans h.2⟩

namespace EndedAt

variable {e : ErrCode} {s u t : State} {n : Nat} {es : List Event} (hend : EndedAt e u t)
include hend

theorem keepsStatus (h : statusKept s u) : statusKept s t := statusKept_trans h hend.status

theorem commandFrame (h : Advance s n es u) (hkept : statusKept s u) (hcnt : u.timeoutCnt = s.timeoutCnt) :
    commandFrame s t := by
  obtain ⟨-, hhandle, hinst, hapc⟩ := hend.advance h
  exact ⟨hhandle, hend.keepsStatus hkept, hinst, hend.cnt.trans hcnt, hapc⟩

theorem latched {k : Nat} (h : latched s u k) : latched s t k :=
  ⟨hend.status.1.trans h.1, hend.status.2.trans h.2⟩

end EndedAt

namespace FrameSent

section
variable {s u : State} {i : Instr} (h : FrameSent i s)
include h

/-- What is left to run is the post-check (R200). -/
theorem exec_eq : ∃ data, exec i s = finish (runPostCheck (postCheckOf s.params i) (s.commanded i)) data := by
  obtain ⟨data, hexec⟩ := h.runs
  exact ⟨data, by rw [hexec, command, sendFrame_commanded i h.valid h.returns h.succeeds]; rfl⟩

theorem ends_ok (hcheck : runPostCheck (postCheckOf s.params i) (s.commanded i) = .ok u) :
    ∃ t, exec i s = .next t ∧ EndedAt .ok u t := by
  obtain ⟨data, hexec⟩ := h.exec_eq
  exact ⟨_, by rw [hexec, hcheck]; rfl, endedAt_endOk u (data u)⟩

theorem ends_err {e : ErrCode} (hcheck : runPostCheck (postCheckOf s.params i) (s.commanded i) = .err e u) :
    ∃ t, exec i s = .next t ∧ EndedAt e u t := by
  obtain ⟨data, hexec⟩ := h.exec_eq
  exact ⟨_, by rw [hexec, hcheck]; rfl, endedAt_endErr e u⟩

/-- A post-check that a sample with the command-error bit `b` ends (R145). -/
theorem ends_sampled {b : Bool} (hcheck : runPostCheck (postCheckOf s.params i) (s.commanded i)
      = if b then .err .chipReportedError u else .ok u) :
    ∃ t, exec i s = .next t ∧ EndedAt (sampleResult b) u t := by
  cases b with
  | true => exact h.ends_err hcheck
  | false => exact h.ends_ok hcheck

/-- The frame alone (R200, R211 to R213). -/
theorem of_nothing (hentry : postCheckOf s.params i = .nothing) :
    ∃ t, exec i s = .next t ∧ endedWith t .ok ∧ commandFrame s t
      ∧ t.trace = s.trace ++ [s.xferAt 0 (encodeWith s.params i)] := by
  have hadv := commanded_advance s i
  obtain ⟨t, ht, hend⟩ := h.ends_ok (u := s.commanded i) (by rw [hentry, runPostCheck])
  exact ⟨t, ht, hend.ended, hend.commandFrame hadv (commanded_statusKept s i) (commanded_timeoutCnt s i),
    (hend.advance hadv).1⟩

/-- The frame and `DELAY(wait)`, no status read (R200, R204). -/
theorem of_settle {wait : Nat} (hentry : postCheckOf s.params i = .settle wait) :
    ∃ t, exec i s = .next t ∧ endedWith t .ok ∧ commandFrame s t
      ∧ t.trace = s.trace ++ s.xferAt 0 (encodeWith s.params i) :: delayEvents wait := by
  have hsent := commanded_advance s i
  have hadv := hsent.trans (.afterDelay _ wait)
  obtain ⟨t, ht, hend⟩ := h.ends_ok (u := (s.commanded i).afterDelay wait)
    (by rw [hentry, runPostCheck, delay_returns (hsent.hang.trans h.returns)])
  exact ⟨t, ht, hend.ended, hend.commandFrame hadv (commanded_statusKept s i) (commanded_timeoutCnt s i),
    (hend.advance hadv).1⟩

/-- The frame and one status read, whose command-error bit decides the result (R145, R200). -/
theorem of_errorCheck {wait : Nat} (hentry : postCheckOf s.params i = .errorCheck wait)
    (hports : s.portsOk 2) (hclear : s.irqAt 1 = true → (s.answerAt 2).ok = true) :
    ∃ t, exec i s = .next t
      ∧ (s.cmdErrAt 1 = false → endedWith t .ok)
      ∧ (s.cmdErrAt 1 = true → endedWith t .chipReportedError)
      ∧ t.trace = s.trace ++ s.xferAt 0 (encodeWith s.params i) :: delayEvents wait ++ s.statusEvents 1 wait
      ∧ t.status1 = s.status1At 1 ∧ t.status2 = s.status2At 1
      ∧ handleKept s t ∧ instanceKept s t ∧ t.timeoutCnt = s.timeoutCnt ∧ t.apcTmp = s.apcTmp := by
  obtain ⟨u, m, hu, hadv, hlatched, hcnt⟩ :=
    checkNoPoll_reads (commanded_advance s i) h.returns h.valid wait (hports 1 (by omega)) hclear
  obtain ⟨t, ht, hend⟩ := h.ends_sampled (by rw [hentry]; exact hu)
  obtain ⟨htrace, hhandle, hinst, hapc⟩ := hend.advance hadv
  obtain ⟨h1, h2⟩ := hend.latched hlatched
  have hended := hend.ended
  exact ⟨t, ht, fun herr => by rwa [herr] at hended, fun herr => by rwa [herr] at hended,
    by simpa using htrace, h1, h2, hhandle, hinst, by rw [hend.cnt, hcnt, commanded_timeoutCnt], hapc⟩

/-- The latches are new exactly if it is the clear-interrupt frame that fails (R142, R274). -/
theorem of_errorCheck_readFails {wait : Nat} (hentry : postCheckOf s.params i = .errorCheck wait)
    (hfails : s.readFails 1) :
    ∃ t, exec i s = .next t ∧ endedWith t .communicationFailure
      ∧ t.trace = s.trace ++ s.xferAt 0 (encodeWith s.params i) :: delayEvents wait ++ s.failedReadEvents 1
      ∧ ((s.answerAt 1).ok = true → latched s t 1)
      ∧ ((s.answerAt 1).ok = false → statusKept s t)
      ∧ handleKept s t ∧ instanceKept s t ∧ t.timeoutCnt = s.timeoutCnt ∧ t.apcTmp = s.apcTmp := by
  obtain ⟨u, m, hu, hadv, hlatches, hcnt⟩ :=
    checkNoPoll_readFails (commanded_advance s i) h.returns h.valid wait hfails
  obtain ⟨t, ht, hend⟩ := h.ends_err (by rw [hentry]; exact hu)
  obtain ⟨htrace, hhandle, hinst, hapc⟩ := hend.advance hadv
  refine ⟨t, ht, hend.ended, by simpa using htrace, fun hread => ?_, fun hread => ?_, hhandle, hinst,
    by rw [hend.cnt, hcnt, commanded_timeoutCnt], hapc⟩
  · rw [if_pos hread] at hlatches
    exact hend.latched hlatches
  · rw [if_neg (by simp [hread])] at hlatches
    exact hend.keepsStatus (statusKept_trans (commanded_statusKept s i) hlatches)

end

/-! An entry that is a poll. -/

section
variable {s : State} {i : Instr} (h : FrameSent i s) {mask : PollMask} {timeout wait : Nat}
variable (hentry : postCheckOf s.params i = .poll mask timeout wait)
include h hentry

theorem timeout_lt : timeout < 2 ^ s.params.tw := by
  have hfits := postCheckOf_fits h.valid i
  rw [hentry] at hfits
  exact (of_decide_eq_true hfits).1

/-- The frame and a wait that sample `k` ends (R145, R201). -/
theorem of_poll_ends {k : Nat} (hk : k < timeout / 10) (hends : s.waitEnds 1 k (pollByte s.params mask)) :
    ∃ t, exec i s = .next t ∧ endedWith t (sampleResult (s.cmdErrAt (s.sampleAt 1 k)))
      ∧ t.trace = s.trace ++ s.xferAt 0 (encodeWith s.params i) :: delayEvents wait ++ s.waitEvents 1 k wait
          ++ s.statusEvents (s.sampleAt 1 k) wait
      ∧ latchesAfter s t 1 (k + 1) ∧ t.timeoutCnt = timeout / 10 - k
      ∧ handleKept s t ∧ instanceKept s t ∧ t.apcTmp = s.apcTmp := by
  obtain ⟨u, hu, hadv, hlatches, hcnt⟩ := checkPoll_ends_at_sample (commanded_advance s i)
    (commanded_statusKept s i) h.returns h.valid _ wait (h.timeout_lt hentry) hk hends
  obtain ⟨t, ht, hend⟩ := h.ends_sampled ((runPostCheck_commanded_poll hentry).trans hu)
  obtain ⟨htrace, hkept⟩ := hend.advance hadv
  exact ⟨t, ht, hend.ended, by simpa using htrace, latchesAfter_of_statusKept hlatches hend.status,
    hend.cnt.trans hcnt, hkept⟩

/-- The frame and a wait whose read of sample `k` fails (R274). -/
theorem of_poll_breaks {k : Nat} (hk : k < timeout / 10) (hbreaks : s.waitBreaks 1 k (pollByte s.params mask)) :
    ∃ t, exec i s = .next t ∧ endedWith t .communicationFailure
      ∧ t.trace = s.trace ++ s.xferAt 0 (encodeWith s.params i) :: delayEvents wait ++ s.waitEvents 1 k wait
          ++ s.failedReadEvents (s.sampleAt 1 k)
      ∧ latchesAfter s t 1 (if (s.answerAt (s.sampleAt 1 k)).ok then k + 1 else k)
      ∧ t.timeoutCnt = timeout / 10 - k ∧ handleKept s t ∧ instanceKept s t ∧ t.apcTmp = s.apcTmp := by
  obtain ⟨u, m, hu, hadv, hlatches, hcnt⟩ := checkPoll_breaks_at_sample (commanded_advance s i)
    (commanded_statusKept s i) h.returns h.valid _ wait (h.timeout_lt hentry) hk hbreaks
  obtain ⟨t, ht, hend⟩ := h.ends_err ((runPostCheck_commanded_poll hentry).trans hu)
  obtain ⟨htrace, hkept⟩ := hend.advance hadv
  exact ⟨t, ht, hend.ended, by simpa using htrace, latchesAfter_of_statusKept hlatches hend.status,
    hend.cnt.trans hcnt, hkept⟩

/-- The frame and a wait that no sample ends (R146). -/
theorem of_poll_expires (hexpires : s.waitExpires 1 (timeout / 10) (pollByte s.params mask)) :
    ∃ t, exec i s = .next t ∧ endedWith t .timeout
      ∧ t.trace = s.trace ++ s.xferAt 0 (encodeWith s.params i) :: delayEvents wait
          ++ s.waitEvents 1 (timeout / 10) wait
      ∧ latchesAfter s t 1 (timeout / 10) ∧ t.timeoutCnt = 0
      ∧ handleKept s t ∧ instanceKept s t ∧ t.apcTmp = s.apcTmp := by
  obtain ⟨u, hu, hadv, hlatches, hcnt⟩ := checkPoll_expires (commanded_advance s i)
    (commanded_statusKept s i) h.returns h.valid _ wait (h.timeout_lt hentry) hexpires
  obtain ⟨t, ht, hend⟩ := h.ends_err ((runPostCheck_commanded_poll hentry).trans hu)
  obtain ⟨htrace, hkept⟩ := hend.advance hadv
  exact ⟨t, ht, hend.ended, by simpa using htrace, latchesAfter_of_statusKept hlatches hend.status,
    hend.cnt.trans hcnt, hkept⟩

end

end FrameSent

/-! ## The register reads -/

/-- An operation that ends in `Ok` delivers the data of the state where its body went on. -/
theorem gated_delivers {s t : State} {body : State → Res} {data : State → Option Data} {P : SeqState → Prop}
    (hs : s.ready) (hends : EndsWell (s.setSeq .commandIssued) P (body (s.setSeq .commandIssued)))
    (hexec : gated body data s = .next t) (hok : t.result = .ok) : ∃ u : State, t = u.endOk (data u) := by
  rw [gated_of_initialized hs.1 hs.2.1] at hexec
  cases hbody : body (s.setSeq .commandIssued) with
  | ok u =>
      rw [hbody] at hexec
      exact ⟨u, (Host.Outcome.next.inj hexec).symm⟩
  | err e u =>
      rw [hbody] at hexec hends
      obtain rfl : u.endErr e = t := Host.Outcome.next.inj hexec
      exact absurd ((State.endErr_result u e).symm.trans hok) (raisedAt_ne_ok hends.2)
  | stuck =>
      rw [hbody] at hexec
      cases hexec

/-- A register read that ends in `Ok` delivers what its own frame received (R208 to R210). -/
theorem registerRead_delivers {s t : State} {i : Instr} {data : FrameBuffer → Data} (hs : s.ready)
    (ha : (s.answerAt 0).ok = true)
    (hexec : gated (command i) (fun _ => frameData i data s) s = .next t) (hok : t.result = .ok) :
    t.rdata = data (s.commanded i).rxbuf := by
  obtain ⟨u, rfl⟩ := gated_delivers hs (command_ends i _ rfl) hexec hok
  obtain ⟨-, -, hp, hh⟩ := hs
  rw [frameData_ok (sendFrame_commanded i hp hh ha), State.endOk_rdata_some]

/-- The pointer of an F-RD4 response, as a number (R84). -/
theorem toNat_rxPointer (b : FrameBuffer) : (rxPointer b).toNat = b[3].toNat % 8 * 256 + b[2].toNat := by
  have hhi : ((b[3] &&& 0x07#8).setWidth 11 <<< 8).toNat = (b[3] &&& 0x07#8).toNat <<< 8 := by
    have hlt := toNat_and_0x07 b[3]
    rw [BitVec.toNat_shiftLeft, BitVec.toNat_setWidth, Nat.shiftLeft_eq, Nat.shiftLeft_eq]
    omega
  have hlo : (b[2].setWidth 11).toNat = b[2].toNat := BitVec.toNat_setWidth_of_le (by decide)
  rw [rxPointer, BitVec.toNat_or, hhi, hlo, ← Nat.shiftLeft_add_eq_or_of_lt b[2].isLt, Nat.shiftLeft_eq,
    toNat_and_0x07]

/-- The id of a device-id response, as a number (R83, conflict C1). -/
theorem toNat_rxDeviceId (b : FrameBuffer) : (rxDeviceId b).toNat = b[2].toNat / 8 := by
  have hmask : (b[2] >>> 3) &&& 0xFF#8 = b[2] >>> 3 := BitVec.and_allOnes
  rw [rxDeviceId, hmask, BitVec.toNat_ushiftRight, Nat.shiftRight_eq_div_pow]

/-- A pointer row that ends in `Ok` delivers the pointer of its own frame. -/
theorem pointerRead_delivers {s t : State} {i : Instr} {op : Byte} (hs : s.ready) (ha : (s.answerAt 0).ok = true)
    (hframe : encodeWith s.params i = rd4Frame s.params op)
    (hexec : gated (command i) (fun _ => frameData i (fun b => (rxPointer b).setWidth 16) s) s = .next t)
    (hok : t.result = .ok) : t.rdata.toNat = (s.rxAt 0 3).toNat % 8 * 256 + (s.rxAt 0 2).toNat := by
  have ⟨_, _, hp, _⟩ := hs
  have hlen : 4 ≤ (encodeWith s.params i).length := by
    rw [hframe, length_rd4Frame s.params hp]; exact (lRd4_bounds hp).1
  have h2 : (s.commanded i).rxbuf[2] = s.rxAt 0 2 := commanded_rxbuf hp 2 (by omega)
  have h3 : (s.commanded i).rxbuf[3] = s.rxAt 0 3 := commanded_rxbuf hp 3 (by omega)
  rw [registerRead_delivers hs ha hexec hok, BitVec.toNat_setWidth_of_le (by decide), toNat_rxPointer, h2, h3]

/-! ## The obligations -/

/-- Settles O54: `exec_handle` for the handle, `exec_moves` for all the rest. -/
theorem noCommandWritesTheHandle : Obligations.NoCommandWritesTheHandle := by
  intro i s t h
  obtain ⟨hinst, ⟨es, htrace, -⟩, -, -⟩ := (exec_moves h).1
  exact ⟨exec_handle h, hinst, es, htrace⟩

/-- Settles O18: the printed entry of the three rows is `nothing`. -/
theorem opcodeOnlyCommandsSendOneFrame : Obligations.OpcodeOnlyCommandsSendOneFrame := by
  refine ⟨fun row hrow s hs ha => ?_, fun s i hstatus hapc hs hacc ha => ?_⟩
  · have hgated : ∃ data, exec row.1 s = gated (command row.1) data s := by fin_cases hrow <;> exact ⟨_, rfl⟩
    have hentry : postCheckOf s.params row.1 = .nothing := by
      fin_cases hrow <;> simp [postCheckOf, hs.2, PostChecks.printed]
    have hframe : encodeWith s.params row.1 = cmdFrame s.params row.2 := by fin_cases hrow <;> rfl
    rw [← hframe]
    exact (frameSent_of_gated hs.1 ha hgated).of_nothing hentry
  · have hsent := frameSent_of_row hstatus hapc hs hacc ha
    exact ⟨hsent.of_nothing, fun _ => hsent.of_settle⟩

/-- Settles O19: the printed entry is a delay of 100 ms; a failed frame and a closed gate end before it. -/
theorem chipResetSettlesWithoutPolling : Obligations.ChipResetSettlesWithoutPolling := by
  intro s
  refine ⟨fun hs ha => ?_, fun hs ha => ?_, fun hseq hinit => ?_⟩
  · have hentry : postCheckOf s.params .reset = .settle 100 := congrArg PostChecks.reset hs.2
    exact (frameSent_of_gated hs.1 ha ⟨_, rfl⟩).of_settle hentry
  · obtain ⟨⟨hseq, hinit, hp, hh⟩, -⟩ := hs
    exact gated_firstFrameFails hseq hinit
      (by rw [command, sendFrame_failed (s.setSeq .commandIssued) .reset hh hp ha]; rfl)
  · exact ⟨_, gated_of_not_initialized hseq hinit, (endedAt_endErr _ _).ended, nothingDone_setSeq_endErr s _ _⟩

/-- Settles O20: the printed entry of the five rows is an error check with no delay. -/
theorem checkedCommandsReadStatusOnce : Obligations.CheckedCommandsReadStatusOnce := by
  refine ⟨fun row hrow s hs hports hclear => ?_, fun s i wait hstatus hapc hs hacc hentry =>
    ⟨fun hports => ?_, fun ha => ?_⟩⟩
  · have hgated : ∃ data, exec row.1 s = gated (command row.1) data s := by fin_cases hrow <;> exact ⟨_, rfl⟩
    have hentry : postCheckOf s.params row.1 = .errorCheck 0 := by
      fin_cases hrow <;> simp [postCheckOf, hs.2, PostChecks.printed]
    have hframe : encodeWith s.params row.1 = cmdFrame s.params row.2 := by fin_cases hrow <;> rfl
    have hsent := frameSent_of_gated hs.1 (hports 0 (by omega)) hgated
    simpa [hframe, delayEvents] using hsent.of_errorCheck hentry hports hclear
  · exact (frameSent_of_row hstatus hapc hs hacc (hports 0 (by omega))).of_errorCheck hentry hports
  · exact (frameSent_of_row hstatus hapc hs hacc ha).of_errorCheck_readFails hentry

/-- Settles O21: the printed entry is a poll of the ready bit for 1000 ms. -/
theorem powerUpEndsOnAClearReadyBit : Obligations.PowerUpEndsOnAClearReadyBit := by
  refine ⟨fun s hs => ?_, fun s i mask timeout wait hstatus hapc hs hacc hentry => ?_⟩
  · have hentry : postCheckOf s.params .pu = .poll (.flag .rdy) 1000 100 := congrArg PostChecks.powerUp hs.2
    have hsent : (s.answerAt 0).ok = true → FrameSent .pu s := fun ha => frameSent_of_gated hs.1 ha ⟨_, rfl⟩
    exact ⟨fun _ hk h => (hsent (portsOk_first h.1)).of_poll_ends hentry hk h,
      fun _ hk h => (hsent (portsOk_first h.1)).of_poll_breaks hentry hk h,
      fun h => (hsent (portsOk_first h.1)).of_poll_expires hentry h⟩
  · have hsent := frameSent_of_row hstatus hapc hs hacc
    exact ⟨fun _ hk h => (hsent (portsOk_first h.1)).of_poll_ends hentry hk h,
      fun _ hk h => (hsent (portsOk_first h.1)).of_poll_breaks hentry hk h,
      fun h => (hsent (portsOk_first h.1)).of_poll_expires hentry h⟩

/-- Settles O22: the data is fixed by the row's frame, whatever its post-check; the printed entry is `nothing`. -/
theorem pointerReadsDeliverElevenBits : Obligations.PointerReadsDeliverElevenBits := by
  intro row hrow s hs ha
  have hgated : exec row.1 s = gated (command row.1)
      (fun _ => frameData row.1 (fun b => (rxPointer b).setWidth 16) s) s := by fin_cases hrow <;> rfl
  have hframe : encodeWith s.params row.1 = rd4Frame s.params row.2 := by fin_cases hrow <;> rfl
  have hdelivers : ∀ t, exec row.1 s = .next t → t.result = .ok →
      t.rdata.toNat = (s.rxAt 0 3).toNat % 8 * 256 + (s.rxAt 0 2).toNat :=
    fun t ht => pointerRead_delivers hs ha hframe (hgated ▸ ht)
  refine ⟨fun hprinted => ?_, hdelivers⟩
  have hentry : postCheckOf s.params row.1 = .nothing := by
    fin_cases hrow <;> simp [postCheckOf, hprinted, PostChecks.printed]
  obtain ⟨t, ht, hend, hkept, htrace⟩ := (frameSent_of_gated hs ha ⟨_, hgated⟩).of_nothing hentry
  exact ⟨t, ht, hend, hkept, hdelivers t ht hend.1, hframe ▸ htrace⟩

/-- Settles O23, as O22: the id of the row's own frame, and the printed entry `nothing`. -/
theorem deviceIdIsTheUpperFiveBits : Obligations.DeviceIdIsTheUpperFiveBits := by
  intro s hs ha
  have ⟨_, _, hp, _⟩ := hs
  have hdelivers : ∀ t, exec .rdDevid s = .next t → t.result = .ok → t.rdata.toNat = (s.rxAt 0 2).toNat / 8 := by
    intro t ht hok
    have hlen : 3 ≤ (rd3Frame s.params 0x09).length := by
      rw [length_rd3Frame s.params hp]; exact (lRd3_bounds hp).1
    have h2 : (s.commanded .rdDevid).rxbuf[2] = s.rxAt 0 2 := commanded_rxbuf hp 2 hlen
    rw [registerRead_delivers hs ha ht hok, BitVec.toNat_setWidth_of_le (by decide), toNat_rxDeviceId, h2]
  refine ⟨fun hprinted => ?_, hdelivers⟩
  have hentry : postCheckOf s.params .rdDevid = .nothing := congrArg PostChecks.readDeviceId hprinted
  obtain ⟨t, ht, hend, hkept, htrace⟩ := (frameSent_of_gated hs ha ⟨_, rfl⟩).of_nothing hentry
  exact ⟨t, ht, hend, hkept, hdelivers t ht hend.1, htrace⟩

end Sys2Proof.Machine
end

section
/-! Proofs. The range setters and the execute commands (44_range_execute.md). Each row is one command whose entry in the
table that R200 prints is a delay of 500 ms, so both families are the same two outcomes of a frame
(`command_settles_or_fails`); a range setter has `RANGE_CHECK` in front of its command. -/

namespace Sys2Proof.Machine

/-! ## A command whose post-check is a delay -/

theorem command_firstFrameFails {s : State} (i : Instr) (hp : s.params.valid = true) (hh : s.hang = none)
    (ha : (s.answerAt 0).ok = false) :
    command i (s.setSeq .commandIssued)
      = .err .communicationFailure ((s.setSeq .commandIssued).exchangeFailed (encodeWith s.params i)) := by
  rw [command, sendFrame_failed (s.setSeq .commandIssued) i hh hp ha]
  rfl

/-- A gated row whose body has come to its command: the frame and the entry's delay, or the failed frame alone
(R239, R240, R274). -/
theorem command_settles_or_fails {s : State} {i : Instr} {body : State → Res} {data : State → Option Data} {wait : Nat}
    (hs : s.ready) (hexec : exec i s = gated body data s)
    (hbody : body (s.setSeq .commandIssued) = command i (s.setSeq .commandIssued))
    (hentry : postCheckOf s.params i = .settle wait) :
    ((s.answerAt 0).ok = true → ∃ t, exec i s = .next t ∧ endedWith t .ok ∧ commandFrame s t
      ∧ t.trace = s.trace ++ s.xferAt 0 (encodeWith s.params i) :: delayEvents wait)
    ∧ ((s.answerAt 0).ok = false → ∃ t, exec i s = .next t ∧ endedWith t .communicationFailure ∧ commandFrame s t
      ∧ t.trace = s.trace ++ [.xferFail ((encodeWith s.params i).map bitrev8)]) := by
  obtain ⟨hseq, hinit, hp, hh⟩ := hs
  refine ⟨fun ha => ?_, fun ha => ?_⟩
  · have hruns : exec i s = finish (command i (s.setSeq .commandIssued)) data := by
      rw [hexec, gated_of_initialized hseq hinit, hbody]
    exact FrameSent.of_settle ⟨⟨data, hruns⟩, hp, hh, ha⟩ hentry
  · rw [hexec]
    exact gated_firstFrameFails hseq hinit (hbody.trans (command_firstFrameFails i hp hh ha))

/-- A gated row at a not initialized engine (R276). -/
theorem exec_of_not_initialized {s : State} {i : Instr} {body : State → Res} {data : State → Option Data}
    (hexec : exec i s = gated body data s) (hseq : s.seq = .idle) (hinit : s.initialized = false) :
    ∃ t, exec i s = .next t ∧ endedWith t .notInitialized ∧ nothingDone s t :=
  ⟨_, hexec.trans (gated_of_not_initialized hseq hinit), (endedAt_endErr _ _).ended, nothingDone_setSeq_endErr s _ _⟩

/-! ## `RANGE_CHECK` -/

/-- The check compares the operands as 16-bit numbers (R64, R230). -/
theorem rangeLegal_iff {a b bound : Addr} :
    rangeLegal a b bound = true ↔ a.toNat < b.toNat ∧ b.toNat ≤ bound.toNat := by
  simp [rangeLegal, BitVec.lt_def, BitVec.le_def]

theorem rangeCommand_of_illegal {s : State} (i : Instr) {a b : Addr} (h : ¬ rangeLegal a b s.endAddress = true) :
    rangeCommand i a b s = .err .invalidArgument s := by
  rw [rangeCommand, rangeCheck, if_neg h]
  rfl

/-- A range setter that can start and fails the check ends there (R230, R272). -/
theorem exec_of_illegal_range {s : State} {i : Instr} {a b : Addr} {data : State → Option Data}
    (hexec : exec i s = gated (rangeCommand i a b) data s) (hseq : s.seq = .idle) (hinit : s.initialized = true)
    (h : ¬(a.toNat < b.toNat ∧ b.toNat ≤ s.endAddress.toNat)) :
    ∃ t, exec i s = .next t ∧ endedWith t .invalidArgument ∧ nothingDone s t := by
  have hcheck : rangeCommand i a b (s.setSeq .commandIssued) = .err .invalidArgument (s.setSeq .commandIssued) :=
    rangeCommand_of_illegal i (mt rangeLegal_iff.mp h)
  refine ⟨_, ?_, (endedAt_endErr _ _).ended, nothingDone_setSeq_endErr s .commandIssued _⟩
  rw [hexec, gated_of_initialized hseq hinit, hcheck]
  rfl

/-! ## The obligations -/

/-- Settles O17: the body of the four rows is their command, and the printed entry a delay of 500 ms. -/
theorem executeCommandsIssueAndSettle : Obligations.ExecuteCommandsIssueAndSettle := by
  intro row hrow s
  have hexec : exec row.1 s = gated (command row.1) noData s := by fin_cases hrow <;> rfl
  have hframe : encodeWith s.params row.1 = cmdFrame s.params row.2 := by fin_cases hrow <;> rfl
  have hentry (hprinted : s.params.postCheck = PostChecks.printed) : postCheckOf s.params row.1 = .settle 500 := by
    fin_cases hrow <;> simp [postCheckOf, hprinted, PostChecks.printed]
  rw [← hframe]
  have houtcomes (hs : s.asPrinted) := command_settles_or_fails hs.1 hexec rfl (hentry hs.2)
  exact ⟨fun hs => (houtcomes hs).1, fun hs => (houtcomes hs).2, exec_of_not_initialized hexec⟩

/-- Settles O24: a legal range goes on to the command as in O17; the check and the gate end before it. -/
theorem rangeSettersSendALegalRange : Obligations.RangeSettersSendALegalRange := by
  intro s a b row hrow
  have hexec : exec row.1 s = gated (rangeCommand row.1 a b) noData s := by fin_cases hrow <;> rfl
  have hframe : encodeWith s.params row.1 = rngFrame s.params row.2 a b := by
    fin_cases hrow <;> exact rangeFrame_eq_rngFrame _ _ _ _
  refine ⟨fun hs hlt hle => ?_, exec_of_illegal_range hexec, exec_of_not_initialized hexec⟩
  have hentry : postCheckOf s.params row.1 = .settle 500 := by
    fin_cases hrow <;> simp [postCheckOf, hs.2, PostChecks.printed]
  have hlegal : rangeLegal a b (s.setSeq .commandIssued).endAddress = true := rangeLegal_iff.mpr ⟨hlt, hle⟩
  rw [← hframe]
  exact command_settles_or_fails hs.1 hexec (rangeCommand_of_legal row.1 hlegal) hentry

end Sys2Proof.Machine
end

section
/-! Proofs. The session operations without a gate (45_session.md R250, R251, R255, R256), and the requests that have no
transition (93 U1, U3). -/

namespace Sys2Proof.Machine

section
variable {s : State} {body : State → Res} {data : State → Option Data}

/-- An operation whose body goes on ends in `Ok` with the data of the state it comes to. -/
theorem operation_ends_ok {u : State} (hseq : s.seq = .idle) (hbody : body (s.setSeq .commandIssued) = .ok u) :
    operation body data s = .next (u.endOk (data u)) := by
  rw [operation, if_pos hseq, hbody]
  rfl

end

/-- Every row is an operation (R215), whose test of the sequencer comes first. -/
theorem exec_of_busy {s : State} (hbusy : s.seq ≠ .idle) (i : Instr) : exec i s = .refused .requestWhileBusy := by
  cases i <;> exact if_neg hbusy

/-- The test of INIT asks for an idle engine. -/
theorem hostInit_of_not_refused {s : State} (h : ¬(s.seq = .idle ∧ s.initialized = true)) :
    execHost .init s = operation initBody noData s := if_neg h

/-- So is every host operation, INIT with a test of its own in front. -/
theorem execHost_of_busy {s : State} (hbusy : s.seq ≠ .idle) (o : HostOp) :
    execHost o s = .refused .requestWhileBusy := by
  cases o with
  | init => rw [hostInit_of_not_refused fun h => hbusy h.1]; exact if_neg hbusy
  | _ => exact if_neg hbusy

/-! ## The obligations -/

/-- Settles O13: the gate of `operation` at a busy engine, the test of `hostInit` at an initialized one. -/
theorem requestsWithoutAMeaningAreRefused : Obligations.RequestsWithoutAMeaningAreRefused :=
  ⟨fun _ hbusy => ⟨exec_of_busy hbusy, execHost_of_busy hbusy⟩, fun _ hseq hinit => if_pos ⟨hseq, hinit⟩⟩

/-- Settles O43: the end of an operation does nothing to the state its body leaves; for SET_TYPE that is the accepted
request with the variant written. -/
theorem typeAccessorsAreNotGated : Obligations.TypeAccessorsAreNotGated := by
  intro s v hseq
  have hset : execHost (.setType v) s = _ :=
    operation_ends_ok (body := fun u => .ok (u.setChipVariant v)) (data := noData) hseq rfl
  refine ⟨⟨_, hset, (endedAt_endOk _ _).ended, ?_, ?_⟩,
    ⟨_, operation_ends_ok hseq rfl, (endedAt_endOk _ _).ended, rfl, nothingDone_setSeq_endOk s _ _⟩⟩
  · rw [State.endOk_chipVariant, State.setChipVariant_chipVariant]
  · exact nothingDone_setSeq_endOk (s.setChipVariant v) .commandIssued none

/-- Settles O44, as O43. -/
theorem interruptDoneAccessors : Obligations.InterruptDoneAccessors := by
  intro s hseq
  have hclear : execHost .clrIntDone s = _ :=
    operation_ends_ok (body := fun u => .ok (u.setInterruptDone false)) (data := noData) hseq rfl
  refine ⟨⟨_, operation_ends_ok hseq rfl, (endedAt_endOk _ _).ended, rfl, nothingDone_setSeq_endOk s _ _⟩,
    ⟨_, hclear, (endedAt_endOk _ _).ended, ?_, ?_⟩⟩
  · rw [State.endOk_interruptDone, State.setInterruptDone_interruptDone]
  · exact nothingDone_setSeq_endOk (s.setInterruptDone false) .commandIssued none

end Sys2Proof.Machine
end

section
/-! Proofs. DEINIT (45_session.md R254, conflict C9). `Calls` is `Advance` for the parts that read no status: port
calls, frames and delays, which keep the latches and the counter. Whatever its power-down step came to, DEINIT is the
two closes after it (`deinit_closes`). -/

namespace Sys2Proof.Machine

/-! ## Parts that read no status -/

/-- The state after a port call that answers with a success bit: the answer is taken, the event is in the trace (R9). -/
def State.called (s : State) (e : Event) : State := s.dropAnswer.emit e

/-- `t` is `s` after `n` answered port calls with the events `es`, none of them a status read: the latches and the
counter are as before. -/
structure Calls (s : State) (n : Nat) (es : List Event) (t : State) : Prop extends Advance s n es t where
  status : statusKept s t
  cnt : t.timeoutCnt = s.timeoutCnt

namespace Calls

theorem refl (s : State) : Calls s 0 [] s :=
  ⟨⟨handleKept_refl s, instanceKept_refl s, rfl, rfl, by simp, by simp⟩, ⟨rfl, rfl⟩, rfl⟩

theorem trans {s t u : State} {n m : Nat} {es fs : List Event} (h : Calls s n es t) (k : Calls t m fs u) :
    Calls s (n + m) (es ++ fs) u :=
  ⟨h.toAdvance.trans k.toAdvance, statusKept_trans h.status k.status, k.cnt.trans h.cnt⟩

/-- No port call, no event. -/
theorem trans_zero {s t u : State} {n : Nat} {es : List Event} (h : Calls s n es t) (k : Calls t 0 [] u) :
    Calls s n es u := by
  simpa using h.trans k

theorem setSeq (s : State) (q : SeqState) : Calls s 0 [] (s.setSeq q) := ⟨.setSeq s q, ⟨rfl, rfl⟩, rfl⟩

theorem exchanged (s : State) (tx : List Byte) : Calls s 1 [s.xferAt 0 tx] (s.exchanged tx) :=
  ⟨.exchanged s tx, by simp [statusKept], by simp⟩

theorem exchangeFailed (s : State) (tx : List Byte) : Calls s 1 [.xferFail (tx.map bitrev8)] (s.exchangeFailed tx) :=
  ⟨.exchangeFailed s tx, by simp [statusKept], by simp⟩

theorem afterDelay (s : State) (ms : Nat) : Calls s 0 (delayEvents ms) (s.afterDelay ms) :=
  ⟨.afterDelay s ms, ⟨rfl, rfl⟩, rfl⟩

theorem called (s : State) (e : Event) : Calls s 1 [e] (s.called e) :=
  ⟨⟨by simp [handleKept, State.called], by simp [instanceKept, State.called], by simp [State.called],
    by simp [State.called], by simp [State.called], by simp [State.called, Nat.add_comm]⟩,
    by simp [statusKept, State.called], by simp [State.called]⟩

theorem proceed (s : State) : Calls s 0 [] s.proceed := by
  unfold State.proceed
  split
  · exact .setSeq s _
  · exact .refl s

theorem backToIssued (s : State) : Calls s 0 [] s.backToIssued := by
  unfold State.backToIssued
  split
  · exact .setSeq s _
  · exact .refl s

end Calls

/-! ## Port calls and frames, from the state an operation has come to -/

section
variable {s t : State} {n : Nat} {es : List Event} (h : Advance s n es t) (hh : s.hang = none)
include h hh

/-- All that a port call with a success bit can come to when it returns (R9, R274). -/
theorem portCall_at (event : Bool → Event) :
    portCall event t = if (s.answerAt n).ok then .ok (t.called (event true))
      else .err .communicationFailure (t.called (event false)) := by
  have hanswer : t.answer = s.answerAt n := (answer_eq t).trans (h.answers 0)
  rw [portCall, portReturns_none (h.hang.trans hh), andThen_ok, hanswer]
  rfl

theorem portCall_ok_at (event : Bool → Event) (ha : (s.answerAt n).ok = true) :
    portCall event t = .ok (t.called (event true)) := by
  rw [portCall_at h hh, if_pos ha]

theorem portCall_failed_at (event : Bool → Event) (ha : (s.answerAt n).ok = false) :
    portCall event t = .err .communicationFailure (t.called (event false)) := by
  rw [portCall_at h hh, ha, if_neg Bool.false_ne_true]

/-- A port call whose result is ignored (R252). -/
theorem portCall_ignored_at (event : Bool → Event) :
    (portCall event t).ignoreErr = .ok (t.called (event (s.answerAt n).ok)) := by
  rw [portCall_at h hh]
  cases (s.answerAt n).ok <;> rfl

variable (hp : s.params.valid = true)
include hp

theorem sendFrame_ok_at (i : Instr) (ha : (s.answerAt n).ok = true) :
    sendFrame i t = .ok (t.exchanged (encodeWith s.params i))
      ∧ Calls t 1 [s.xferAt n (encodeWith s.params i)] (t.exchanged (encodeWith s.params i)) := by
  have hanswer : (t.answerAt 0).ok = true := by rwa [h.answers]
  rw [sendFrame_ok t i (h.hang.trans hh) (h.params ▸ hp) hanswer, h.params]
  have hevent := h.xferAt 0 (encodeWith s.params i)
  exact ⟨rfl, hevent ▸ .exchanged t _⟩

theorem sendFrame_failed_at (i : Instr) (ha : (s.answerAt n).ok = false) :
    sendFrame i t = .err .communicationFailure (t.exchangeFailed (encodeWith s.params i)) := by
  have hanswer : (t.answerAt 0).ok = false := by rwa [h.answers]
  rw [sendFrame_failed t i (h.hang.trans hh) (h.params ▸ hp) hanswer, h.params]

/-- As `statusRead_failed_at`, with the port calls counted. -/
theorem statusRead_failed_counted (settle : Nat) (hfails : s.readFails n) :
    ∃ u, statusRead settle t = .err .communicationFailure u
      ∧ Advance s (n + if (s.answerAt n).ok then 2 else 1) (es ++ s.failedReadEvents n) u
      ∧ (if (s.answerAt n).ok then latched s u n else statusKept t u) ∧ u.timeoutCnt = t.timeoutCnt := by
  obtain ⟨u, hu, hadv, hlatches, hcnt⟩ := statusRead_failed (h.hang.trans hh) (h.params ▸ hp) settle
    (by simpa [State.readFails, h.answers, h.irqAt] using hfails)
  refine ⟨u, hu, by simpa [h.answers, h.failedReadEvents] using h.trans hadv, ?_, hcnt⟩
  simpa [latched, h.status1At, h.status2At, h.answers] using hlatches

end

/-! ## The closes of DEINIT -/

/-- Any error of the power-down command is discarded (R254, C9). -/
theorem deinitPowerDown_of_ok {s u : State} (h : command .pd s = .ok u) : deinitPowerDown s = .ok u.proceed := by
  rw [deinitPowerDown, h]; rfl

theorem deinitPowerDown_of_err {s u : State} {e : ErrCode} (h : command .pd s = .err e u) :
    deinitPowerDown s = .ok u.backToIssued := by
  rw [deinitPowerDown, h]; rfl

/-- A power-down step that came to `u` leaves the sequencer to be moved, and nothing else. -/
theorem deinitPowerDown_discards {s u : State} (h : command .pd s = .ok u ∨ ∃ e, command .pd s = .err e u) :
    ∃ v, deinitPowerDown s = .ok v ∧ Calls u 0 [] v := by
  obtain h | ⟨e, h⟩ := h
  · exact ⟨_, deinitPowerDown_of_ok h, .proceed u⟩
  · exact ⟨_, deinitPowerDown_of_err h, .backToIssued u⟩

/-- What DEINIT leaves when it ends at `t`, with `INITIALIZED` at `b` (R254). -/
theorem deinit_keeps {s u t : State} {e : ErrCode} {n : Nat} {es : List Event} {b : Bool}
    (h : Advance (s.setInitialized b) n es u) (hcnt : u.timeoutCnt = s.timeoutCnt) (hend : EndedAt e u t) :
    (t.chipVariant = s.chipVariant ∧ t.endAddress = s.endAddress ∧ t.volSrc = s.volSrc
      ∧ t.interruptDone = s.interruptDone ∧ instanceKept s t ∧ t.timeoutCnt = s.timeoutCnt
      ∧ t.apcTmp = s.apcTmp)
    ∧ endedWith t e ∧ t.initialized = b ∧ t.trace = s.trace ++ es := by
  obtain ⟨htrace, ⟨hchip, haddr, hvol, hinit, hint⟩, hinst, hapc⟩ := hend.advance h
  exact ⟨⟨hchip, haddr, hvol, hint, hinst, hend.cnt.trans hcnt, hapc⟩, hend.ended, hinit, htrace⟩

theorem Advance.setInitialized {s t : State} {n : Nat} {es : List Event} (h : Advance s n es t) (b : Bool) :
    Advance (s.setInitialized b) n es (t.setInitialized b) := by
  obtain ⟨hchip, haddr, hvol, -, hint⟩ := h.handle
  exact ⟨⟨hchip, haddr, hvol, rfl, hint⟩, h.inst, h.apcTmp, h.hang, h.trace, h.answers⟩

/-- DEINIT after its power-down step, whatever that came to: the two closes, of which each may fail. -/
theorem deinit_closes {s u : State} {n : Nat} {es : List Event} (hs : s.ready)
    (hpower : command .pd (s.setSeq .commandIssued) = .ok u
      ∨ ∃ e, command .pd (s.setSeq .commandIssued) = .err e u)
    (hadv : Advance s n es u) (hcnt : u.timeoutCnt = s.timeoutCnt) :
    ∃ t, execHost .deinit s = .next t ∧ statusKept u t ∧ deinitCloses s t n es := by
  have ⟨hseq, hinit, _, hh⟩ := hs
  have hready {m fs w} (h : Advance s m fs w) : Advance (s.setInitialized true) m fs w := by
    have hsame : s.setInitialized true = s := by rw [← hinit]; rfl
    rwa [hsame]
  obtain ⟨v, hv, hcalls⟩ := deinitPowerDown_discards hpower
  have hv' : Advance s n es v := hadv.trans_zero hcalls.toAdvance
  have hexec : execHost .deinit s = finish (((phyDeinit v).andThen gpioDeinit).andThen fun w =>
      .ok (w.setInitialized false)) noData := by
    have hgated : execHost .deinit s = gated deinitBody noData s := rfl
    rw [hgated, gated_of_initialized hseq hinit, deinitBody, hv, andThen_ok]
  cases ha : (s.answerAt n).ok with
  | false =>
      have hphy : phyDeinit v = _ := portCall_failed_at hv' hh _ ha
      have hclosed := hcalls.trans (.called v (.phyDeinit false))
      have hend := endedAt_endErr .communicationFailure (v.called (.phyDeinit false))
      have hdone := deinit_keeps (hready (hadv.trans hclosed.toAdvance)) (hclosed.cnt.trans hcnt) hend
      refine ⟨_, by rw [hexec, hphy]; rfl, statusKept_trans hclosed.status hend.status, hdone.1, ?_⟩
      simpa [ha] using hdone.2
  | true =>
      have hphy : phyDeinit v = _ := portCall_ok_at hv' hh _ ha
      have hopen := hv'.trans (Calls.called v (.phyDeinit true)).toAdvance
      cases hb : (s.answerAt (n + 1)).ok with
      | false =>
          have hgpio : gpioDeinit _ = _ := portCall_failed_at hopen hh _ hb
          have hclosed := (hcalls.trans (.called v (.phyDeinit true))).trans (.called _ (.gpioDeinit false))
          have hend := endedAt_endErr .communicationFailure ((v.called (.phyDeinit true)).called (.gpioDeinit false))
          have hdone := deinit_keeps (hready (hadv.trans hclosed.toAdvance)) (hclosed.cnt.trans hcnt) hend
          refine ⟨_, by rw [hexec, hphy, andThen_ok, hgpio]; rfl, statusKept_trans hclosed.status hend.status,
            hdone.1, ?_⟩
          simpa [ha, hb] using hdone.2
      | true =>
          have hgpio : gpioDeinit _ = _ := portCall_ok_at hopen hh _ hb
          have hclosed := (hcalls.trans (.called v (.phyDeinit true))).trans (.called _ (.gpioDeinit true))
          have hend := endedAt_endOk
            (((v.called (.phyDeinit true)).called (.gpioDeinit true)).setInitialized false) none
          have hdone := deinit_keeps ((hadv.trans hclosed.toAdvance).setInitialized false)
            (hclosed.cnt.trans hcnt) hend
          refine ⟨_, by rw [hexec, hphy, andThen_ok, hgpio]; rfl, statusKept_trans hclosed.status hend.status,
            hdone.1, ?_⟩
          simpa [ha, hb] using hdone.2

/-! ## The power-down step -/

/-- The power-down command at the printed table is its frame and one error check with no delay (R200, R202). -/
theorem powerDown_of_sent {s : State} (hs : s.asPrinted) (ha : (s.answerAt 0).ok = true) :
    command .pd (s.setSeq .commandIssued) = (statusRead 0 (s.commanded .pd)).andThen checkCmdErr := by
  obtain ⟨⟨-, -, hp, hh⟩, hprinted⟩ := hs
  have hentry : postCheckOf s.params .pd = .errorCheck 0 := congrArg PostChecks.powerDown hprinted
  rw [command, sendFrame_commanded .pd hp hh ha, andThen_ok, State.setSeq_params, hentry]
  rfl

section
variable {s : State} (hs : s.asPrinted) (ha : (s.answerAt 0).ok = true)
include hs ha

/-- The power-down command whose frames succeed, whatever the command-error bit read. -/
theorem powerDown_reads (hread : (s.answerAt 1).ok = true) (hclear : s.irqAt 1 = true → (s.answerAt 2).ok = true) :
    ∃ u, (command .pd (s.setSeq .commandIssued) = .ok u ∨ ∃ e, command .pd (s.setSeq .commandIssued) = .err e u)
      ∧ Advance s (1 + if s.irqAt 1 then 2 else 1) (s.xferAt 0 (cmdFrame s.params 0x07) :: s.statusEvents 1 0) u
      ∧ latched s u 1 ∧ u.timeoutCnt = s.timeoutCnt := by
  have ⟨⟨_, _, hp, hh⟩, _⟩ := hs
  obtain ⟨u, hu, hadv, hlatched, hcnt⟩ := statusRead_ok_at (commanded_advance s .pd) hh hp 0 hread hclear
  rw [commanded_timeoutCnt] at hcnt
  rw [powerDown_of_sent hs ha, hu, andThen_ok, checkCmdErr_of_latched hlatched]
  cases s.cmdErrAt 1 with
  | true => exact ⟨_, .inr ⟨_, rfl⟩, hadv.trans_zero (.setSeq u _), hlatched, hcnt⟩
  | false => exact ⟨u, .inl rfl, hadv, hlatched, hcnt⟩

/-- The power-down command whose status read fails (R142, R274). -/
theorem powerDown_readFails (hfails : s.readFails 1) :
    ∃ u, command .pd (s.setSeq .commandIssued) = .err .communicationFailure u
      ∧ Advance s (1 + if (s.answerAt 1).ok then 2 else 1)
          (s.xferAt 0 (cmdFrame s.params 0x07) :: s.failedReadEvents 1) u
      ∧ (if (s.answerAt 1).ok then latched s u 1 else statusKept s u) ∧ u.timeoutCnt = s.timeoutCnt := by
  have ⟨⟨_, _, hp, hh⟩, _⟩ := hs
  have hsent := commanded_advance s .pd
  obtain ⟨u, hu, hadv, hlatches, hcnt⟩ := statusRead_failed_counted hsent hh hp 0 hfails
  rw [commanded_timeoutCnt] at hcnt
  refine ⟨u, by rw [powerDown_of_sent hs ha, hu]; rfl, hadv, ?_, hcnt⟩
  by_cases hread : (s.answerAt 1).ok = true
  · rwa [if_pos hread] at hlatches ⊢
  · rw [if_neg hread] at hlatches ⊢
    exact statusKept_trans (commanded_statusKept s .pd) hlatches

end

/-! ## The obligation -/

/-- Settles O50: in each case the power-down step comes to a state from which `deinit_closes` goes on. -/
theorem deinitClosesBothPorts : Obligations.DeinitClosesBothPorts := by
  intro s hs
  refine ⟨?_, fun ha => ?_, fun h0 h1 => ?_, fun hports hirq hclear => ?_⟩
  · rintro d rfl hports
    obtain ⟨u, hpower, hadv, hlatched, hcnt⟩ := powerDown_reads hs (hports 0 (by omega)) (hports 1 (by omega))
      fun hirq => hports 2 (by simp [hirq])
    have hcount : 2 + (if s.irqAt 1 then 1 else 0) = 1 + if s.irqAt 1 then 2 else 1 := by split <;> rfl
    obtain ⟨t, ht, hstatus, hcloses⟩ := deinit_closes hs.1 hpower hadv hcnt
    exact ⟨t, ht, hstatus.1.trans hlatched.1, hstatus.2.trans hlatched.2, hcount ▸ hcloses⟩
  · have ⟨⟨_, _, hp, hh⟩, _⟩ := hs
    have hfailed := (Calls.setSeq s .commandIssued).trans (.exchangeFailed _ (encodeWith s.params .pd))
    obtain ⟨t, ht, hstatus, hcloses⟩ :=
      deinit_closes hs.1 (.inr ⟨_, command_firstFrameFails .pd hp hh ha⟩) hfailed.toAdvance hfailed.cnt
    exact ⟨t, ht, statusKept_trans hfailed.status hstatus, hcloses⟩
  · obtain ⟨u, hpower, hadv, hlatches, hcnt⟩ := powerDown_readFails hs h0 (.inl h1)
    rw [if_neg (by simp [h1])] at hlatches
    obtain ⟨t, ht, hstatus, hcloses⟩ := deinit_closes hs.1 (.inr ⟨_, hpower⟩) hadv hcnt
    exact ⟨t, ht, statusKept_trans hlatches hstatus, by simpa [h1, State.failedReadEvents] using hcloses⟩
  · have h1 := hports 1 (by omega)
    obtain ⟨u, hpower, hadv, hlatches, hcnt⟩ :=
      powerDown_readFails hs (hports 0 (by omega)) (.inr ⟨h1, hirq, hclear⟩)
    rw [if_pos h1] at hlatches
    obtain ⟨t, ht, hstatus, hcloses⟩ := deinit_closes hs.1 (.inr ⟨_, hpower⟩) hadv hcnt
    exact ⟨t, ht, hstatus.1.trans hlatches.1, hstatus.2.trans hlatches.2,
      by simpa [h1, State.failedReadEvents] using hcloses⟩

end Sys2Proof.Machine
end

section
/-! Proofs. INIT (45_session.md R252) with the answers of the ports given. Each step is stated from the state that the
operation has come to; `init_opened`, `init_pulsed`, `init_poweredUp`, `init_sampled` and `init_identified` put the
steps that succeed one after another, and a step that fails ends in `releaseAndRaise` there (`init_raises`). -/

namespace Sys2Proof.Machine

/-! ## The writes of the handle, on both sides -/

theorem Advance.setEndAddress {s t : State} {n : Nat} {es : List Event} (h : Advance s n es t) (a : Addr) :
    Advance (s.setEndAddress a) n es (t.setEndAddress a) := by
  obtain ⟨hchip, -, hvol, hinit, hint⟩ := h.handle
  exact ⟨⟨hchip, rfl, hvol, hinit, hint⟩, h.inst, h.apcTmp, h.hang, h.trace, h.answers⟩

theorem Advance.markReady {s t : State} {n : Nat} {es : List Event} (h : Advance s n es t) :
    Advance s.markReady n es t.markReady := by
  obtain ⟨hchip, haddr, -, -, hint⟩ := h.handle
  exact ⟨⟨hchip, haddr, rfl, rfl, hint⟩, h.inst, h.apcTmp, h.hang, h.trace, h.answers⟩

@[simp] theorem setEndAddress_xferAt (s : State) (a : Addr) (k : Nat) (frame : List Byte) :
    (s.setEndAddress a).xferAt k frame = s.xferAt k frame := rfl

/-! ## The steps of INIT, in order -/

/-- Steps 9 to 11 of INIT (R252). -/
def initLastSteps (s : State) : Res := (tryCommand .reset s).andThen fun s => .ok s.markReady

/-- Steps 6 to 11 of INIT (R252). -/
def initAfterPowerUp (s : State) : Res := (identityCheck s).andThen initLastSteps

/-- The pseudocode of INIT as one step after another. -/
theorem initBody_eq_steps {s : State} (hb : s.bindingsOk = true) :
    initBody s = (openPorts s).andThen fun s => (resetPulse s).andThen fun s =>
      (tryCommand .pu s).andThen initAfterPowerUp := by
  rw [initBody, if_pos hb]
  simp only [andThen_assoc]
  rfl

theorem hostInit_eq_finish {s : State} (hs : s.canInit) :
    execHost .init s = finish (initBody (s.setSeq .commandIssued)) noData := by
  obtain ⟨hseq, hinit, -⟩ := hs
  rw [hostInit_of_not_refused (by simp [hinit]), operation, if_pos hseq]

/-- Nothing runs after a raise. -/
theorem releaseAndRaise_andThen (e : ErrCode) (s : State) (k : State → Res) :
    (releaseAndRaise e s).andThen k = releaseAndRaise e s := by
  rw [releaseAndRaise, andThen_assoc]
  rfl

/-! ## Each step, from the state the operation has come to -/

section
variable {s t : State} {n : Nat} {es : List Event} (h : Advance s n es t) (hh : s.hang = none)
include h hh

/-- `RELEASE()` closes both ports, whatever they answer (R252). -/
theorem releaseAndRaise_at (e : ErrCode) :
    ∃ u, releaseAndRaise e t = .err e u
      ∧ Calls t 2 [.phyDeinit (s.answerAt n).ok, .gpioDeinit (s.answerAt (n + 1)).ok] u := by
  have hback := Calls.backToIssued t
  have hadv := h.trans_zero hback.toAdvance
  have hphy := portCall_ignored_at hadv hh .phyDeinit
  have hclosed := Calls.called t.backToIssued (.phyDeinit (s.answerAt n).ok)
  have hgpio := portCall_ignored_at (hadv.trans hclosed.toAdvance) hh .gpioDeinit
  refine ⟨_, ?_, (hback.trans hclosed).trans (.called _ (.gpioDeinit (s.answerAt (n + 1)).ok))⟩
  rw [releaseAndRaise, release, phyDeinit, hphy, andThen_ok, gpioDeinit, hgpio, andThen_ok]

theorem openPorts_phyFails (ha : (s.answerAt n).ok = false) :
    openPorts t = .err .communicationFailure (t.called (.phyInit false)) := by
  rw [openPorts, phyInit, portCall_failed_at h hh _ ha, andThen_err]

theorem openPorts_gpioFails (ha : (s.answerAt n).ok = true) (hb : (s.answerAt (n + 1)).ok = false) :
    ∃ u, openPorts t = .err .communicationFailure u
      ∧ Calls t 3 [.phyInit true, .gpioInit false, .phyDeinit (s.answerAt (n + 2)).ok] u := by
  have hphy := Calls.called t (.phyInit true)
  have hgpio := hphy.trans (.called _ (.gpioInit false))
  have hclose := portCall_ignored_at (h.trans hgpio.toAdvance) hh .phyDeinit
  refine ⟨_, ?_, hgpio.trans (.called _ (.phyDeinit (s.answerAt (n + 2)).ok))⟩
  rw [openPorts, phyInit, portCall_ok_at h hh _ ha, andThen_ok, gpioInit,
    portCall_failed_at (h.trans hphy.toAdvance) hh _ hb]
  simp only [phyDeinit, hclose, andThen_ok]

theorem openPorts_ok (ha : (s.answerAt n).ok = true) (hb : (s.answerAt (n + 1)).ok = true) :
    ∃ u, openPorts t = .ok u ∧ Calls t 2 [.phyInit true, .gpioInit true] u := by
  have hphy := Calls.called t (.phyInit true)
  refine ⟨_, ?_, hphy.trans (.called _ (.gpioInit true))⟩
  rw [openPorts, phyInit, portCall_ok_at h hh _ ha, andThen_ok, gpioInit,
    portCall_ok_at (h.trans hphy.toAdvance) hh _ hb]

theorem resetPulse_highFails (ha : (s.answerAt n).ok = false) :
    resetPulse t = releaseAndRaise .communicationFailure (t.called (.gpioWrite true false)) := by
  rw [resetPulse, gpioWrite, portCall_failed_at h hh _ ha]
  simp only [Res.orRelease, releaseAndRaise_andThen]

/-- The first half of the reset pulse (R252). -/
theorem resetPulse_high (ha : (s.answerAt n).ok = true) :
    ∃ u, resetPulse t = (gpioWrite false u).orRelease.andThen (delay 1)
      ∧ Calls t 1 [.gpioWrite true true, .delay 1] u := by
  have hhigh := (Calls.called t (.gpioWrite true true)).trans (.afterDelay _ 1)
  refine ⟨_, ?_, hhigh⟩
  rw [resetPulse, gpioWrite, portCall_ok_at h hh _ ha, Res.orRelease, andThen_ok,
    delay_returns ((Calls.called t (.gpioWrite true true)).hang.trans (h.hang.trans hh)), andThen_ok]

theorem resetPulse_lowFails (ha : (s.answerAt n).ok = true) (hb : (s.answerAt (n + 1)).ok = false) :
    ∃ u, resetPulse t = releaseAndRaise .communicationFailure u
      ∧ Calls t 2 [.gpioWrite true true, .delay 1, .gpioWrite false false] u := by
  obtain ⟨u, hu, hhigh⟩ := resetPulse_high h hh ha
  refine ⟨_, ?_, hhigh.trans (.called u (.gpioWrite false false))⟩
  rw [hu, gpioWrite, portCall_failed_at (h.trans hhigh.toAdvance) hh _ hb]
  simp only [Res.orRelease, releaseAndRaise_andThen]

theorem resetPulse_ok (ha : (s.answerAt n).ok = true) (hb : (s.answerAt (n + 1)).ok = true) :
    ∃ u, resetPulse t = .ok u
      ∧ Calls t 2 [.gpioWrite true true, .delay 1, .gpioWrite false true, .delay 1] u := by
  obtain ⟨u, hu, hhigh⟩ := resetPulse_high h hh ha
  have hlow := hhigh.trans (.called u (.gpioWrite false true))
  refine ⟨_, ?_, hlow.trans (.afterDelay _ 1)⟩
  rw [hu, gpioWrite, portCall_ok_at (h.trans hhigh.toAdvance) hh _ hb, Res.orRelease, andThen_ok,
    delay_returns ((h.trans hlow.toAdvance).hang.trans hh)]

variable (hp : s.params.valid = true)
include hp

theorem tryCommand_frameFails (i : Instr) (ha : (s.answerAt n).ok = false) :
    tryCommand i t = releaseAndRaise .communicationFailure (t.exchangeFailed (encodeWith s.params i)) := by
  rw [tryCommand, command, sendFrame_failed_at h hh hp i ha]
  rfl

theorem tryCommand_sent (i : Instr) (ha : (s.answerAt n).ok = true) :
    tryCommand i t
      = (runPostCheck (postCheckOf s.params i) (t.exchanged (encodeWith s.params i))).proceed.orRelease := by
  rw [tryCommand, command, (sendFrame_ok_at h hh hp i ha).1, h.params]
  rfl

theorem identityCheck_frameFails (ha : (s.answerAt n).ok = false) :
    identityCheck t = releaseAndRaise .communicationFailure (t.exchangeFailed (rd3Frame s.params 0x09)) := by
  rw [identityCheck, sendFrame_failed_at h hh hp .rdDevid ha]
  simp only [Res.orRelease, releaseAndRaise_andThen]
  rfl

/-- At the printed table the device-id frame has no post-check; its byte 2 carries the id (R83, R200, R252). -/
theorem identityCheck_sent (hentry : postCheckOf s.params .rdDevid = .nothing) (ha : (s.answerAt n).ok = true) :
    identityCheck t = identify (s.rxAt n 2 >>> 3) (t.exchanged (rd3Frame s.params 0x09)).proceed := by
  obtain ⟨hsend, hcalls⟩ := sendFrame_ok_at h hh hp .rdDevid ha
  have hlen := length_rd3Frame s.params hp 0x09
  obtain ⟨hlo, hhi⟩ := lRd3_bounds hp
  have hbyte : (t.exchanged (rd3Frame s.params 0x09)).rxbuf[2] = s.rxAt n 2 :=
    (exchanged_rxbuf t (by omega) 2 (by rw [hlen]; exact hlo)).trans (h.rxAt 0 2)
  have hid : rxDeviceId (t.exchanged (rd3Frame s.params 0x09)).rxbuf = s.rxAt n 2 >>> 3 := by
    rw [rxDeviceId, hbyte]; exact BitVec.and_allOnes
  have hparams : (t.exchanged (rd3Frame s.params 0x09)).params = s.params := (exchanged_params _ _).trans h.params
  rw [identityCheck, hsend]
  have hframe : encodeWith s.params .rdDevid = rd3Frame s.params 0x09 := rfl
  simp only [Res.orRelease, andThen_ok, hframe, hparams, hentry, runPostCheck, Res.proceed, hid]

/-- The chip's RESET of step 9 is its frame and 100 ms (R200, R204). -/
theorem tryReset_sent (hentry : postCheckOf s.params .reset = .settle 100) (ha : (s.answerAt n).ok = true) :
    ∃ u, tryCommand .reset t = .ok u ∧ Calls t 1 [s.xferAt n (cmdFrame s.params 0x03), .delay 100] u := by
  have hsent := (sendFrame_ok_at h hh hp .reset ha).2
  refine ⟨_, ?_, (hsent.trans (.afterDelay _ 100)).trans_zero (.proceed _)⟩
  rw [tryCommand_sent h hh hp .reset ha, hentry, runPostCheck,
    delay_returns ((h.trans hsent.toAdvance).hang.trans hh)]
  rfl

/-- As `checkPoll_breaks_at_sample`, with the port calls counted. -/
theorem checkPoll_breaks_counted (hkept : statusKept s t) (mask : Byte) {timeout : Nat} (settle : Nat)
    (htw : timeout < 2 ^ s.params.tw) {k : Nat} (hk : k < timeout / 10) (hbreaks : s.waitBreaks n k mask) :
    ∃ u, checkPoll mask timeout settle t = .err .communicationFailure u
      ∧ Advance s (s.sampleAt n k + if (s.answerAt (s.sampleAt n k)).ok then 2 else 1)
          (es ++ delayEvents settle ++ s.waitEvents n k settle ++ s.failedReadEvents (s.sampleAt n k)) u
      ∧ latchesAfter s u n (if (s.answerAt (s.sampleAt n k)).ok then k + 1 else k)
      ∧ u.timeoutCnt = timeout / 10 - k := by
  obtain ⟨hports, hwaits, hfails⟩ := hbreaks
  obtain ⟨u, hu, hadv, hlatches, hcnt⟩ := checkPoll_waits h hkept hh hp mask settle htw hk.le hports hwaits
  obtain ⟨v, hv, hadv', hlatches', hv'⟩ := statusRead_failed_counted hadv hh hp settle hfails
  obtain ⟨l, hl⟩ : ∃ l, timeout / 10 - k = l + 1 := ⟨timeout / 10 - k - 1, by omega⟩
  refine ⟨v, by rw [hu, hl, pollLoop, hv]; rfl, hadv', ?_, hv'.trans hcnt⟩
  cases hread : (s.answerAt (s.sampleAt n k)).ok with
  | true => rw [hread, if_pos rfl] at hlatches'; exact hlatches'
  | false =>
      rw [hread, if_neg Bool.false_ne_true] at hlatches'
      exact latchesAfter_of_statusKept hlatches hlatches'

end

/-! ## The steps that succeed, one after another -/

theorem powerUpEvents_eq (s : State) :
    openEvents ++ [s.xferAt 4 (cmdFrame s.params 0x01)] ++ delayEvents 100 = s.powerUpEvents := by
  simp [State.powerUpEvents, delayEvents]

section
variable {s : State} (hs : s.canInit)
include hs

/-- Steps 1 to 3 of INIT. -/
theorem init_opened (hports : s.portsOk 2) :
    ∃ t, initBody (s.setSeq .commandIssued)
        = (resetPulse t).andThen (fun u => (tryCommand .pu u).andThen initAfterPowerUp)
      ∧ Calls s 2 [.phyInit true, .gpioInit true] t := by
  obtain ⟨-, -, hb, -, hh, -⟩ := hs
  have hstart := Calls.setSeq s .commandIssued
  obtain ⟨t, ht, hopen⟩ := openPorts_ok hstart.toAdvance hh (hports 0 (by omega)) (hports 1 (by omega))
  have hsteps := initBody_eq_steps (s := s.setSeq .commandIssued) hb
  rw [ht, andThen_ok] at hsteps
  exact ⟨t, hsteps, hstart.trans hopen⟩

/-- Steps 1 to 4 of INIT. -/
theorem init_pulsed (hports : s.portsOk 4) :
    ∃ t, initBody (s.setSeq .commandIssued) = (tryCommand .pu t).andThen initAfterPowerUp
      ∧ Calls s 4 openEvents t := by
  have ⟨_, _, _, _, hh, _⟩ := hs
  obtain ⟨t, ht, hopen⟩ := init_opened hs (portsOk_mono hports (by omega))
  obtain ⟨u, hu, hpulse⟩ := resetPulse_ok hopen.toAdvance hh (hports 2 (by omega)) (hports 3 (by omega))
  exact ⟨u, by rw [ht, hu, andThen_ok], hopen.trans hpulse⟩

/-- Steps 1 to 4 of INIT and the power-up frame; what is left of step 5 is its wait for ready, of 1000 ms. -/
theorem init_poweredUp (hports : s.portsOk 5) :
    ∃ t, initBody (s.setSeq .commandIssued)
        = ((checkPoll (s2Mask s.params .rdy) 1000 100 t).proceed.orRelease).andThen initAfterPowerUp
      ∧ Calls s 5 (openEvents ++ [s.xferAt 4 (cmdFrame s.params 0x01)]) t := by
  have ⟨_, _, _, hp, hh, hprinted⟩ := hs
  have hentry : postCheckOf s.params .pu = .poll (.flag .rdy) 1000 100 := congrArg PostChecks.powerUp hprinted
  obtain ⟨t, ht, hpulsed⟩ := init_pulsed hs (portsOk_mono hports (by omega))
  have hsent := (sendFrame_ok_at hpulsed.toAdvance hh hp .pu (hports 4 (by omega))).2
  have hparams := (hpulsed.trans hsent).params
  refine ⟨_, ?_, hpulsed.trans hsent⟩
  rw [ht, tryCommand_sent hpulsed.toAdvance hh hp .pu (hports 4 (by omega)), hentry, runPostCheck, hparams]
  rfl

theorem init_timeout_lt : 1000 < 2 ^ s.params.tw := by
  have ⟨_, _, _, hp, _, hprinted⟩ := hs
  have hentry : postCheckOf s.params .pu = .poll (.flag .rdy) 1000 100 := congrArg PostChecks.powerUp hprinted
  have hfits := postCheckOf_fits hp .pu
  rw [hentry] at hfits
  exact (of_decide_eq_true hfits).1

/-- Steps 1 to 5 of INIT, where sample `k` of the wait ends it: without an error INIT goes on, with one it raises. -/
theorem init_sampled {k : Nat} (hk : k < 100) (hends : s.waitEnds 5 k (s2Mask s.params .rdy)) :
    ∃ t, initBody (s.setSeq .commandIssued)
        = (if s.cmdErrAt (s.sampleAt 5 k) then releaseAndRaise .chipReportedError t else initAfterPowerUp t)
      ∧ Advance s (s.sampleAt 5 (k + 1)) (s.powerUpEvents ++ s.waitEvents 5 k 100
          ++ s.statusEvents (s.sampleAt 5 k) 100) t
      ∧ latchesAfter s t 5 (k + 1) ∧ t.timeoutCnt = 100 - k := by
  have ⟨_, _, _, hp, hh, _⟩ := hs
  obtain ⟨t, ht, hpowered⟩ := init_poweredUp hs (portsOk_mono hends.1 (le_sampleAt s 5 (k + 1)))
  obtain ⟨u, hu, hadv, hlatches, hcnt⟩ :=
    checkPoll_ends_at_sample hpowered.toAdvance hpowered.status hh hp _ 100 (init_timeout_lt hs) hk hends
  rw [powerUpEvents_eq] at hadv
  rw [ht, hu]
  cases s.cmdErrAt (s.sampleAt 5 k) with
  | true => exact ⟨u, releaseAndRaise_andThen .chipReportedError u initAfterPowerUp, hadv, hlatches, hcnt⟩
  | false =>
      have hproceed := Calls.proceed u
      exact ⟨u.proceed, rfl, hadv.trans_zero hproceed.toAdvance,
        latchesAfter_of_statusKept hlatches hproceed.status, hproceed.cnt.trans hcnt⟩

/-- Steps 1 to 8 of INIT: the chip reports the id of the handle's variant, whose end address is written. -/
theorem init_identified {k q : Nat} {v : Variant} (hk : k < 100) (hq : q = s.sampleAt 5 (k + 1))
    (hends : s.waitEnds 5 k (s2Mask s.params .rdy)) (herr : s.cmdErrAt (s.sampleAt 5 k) = false)
    (ha : (s.answerAt q).ok = true) (hchip : s.chipVariant = v.code)
    (hid : s.rxAt q 2 >>> 3 = deviceIdOf s.params v) :
    ∃ t, initBody (s.setSeq .commandIssued) = initLastSteps t
      ∧ Advance (s.setEndAddress (endAddrOf v)) (q + 1) (s.powerUpEvents ++ s.waitEvents 5 k 100
          ++ s.statusEvents (s.sampleAt 5 k) 100 ++ [s.xferAt q (rd3Frame s.params 0x09)]) t
      ∧ latchesAfter s t 5 (k + 1) ∧ t.timeoutCnt = 100 - k := by
  have ⟨_, _, _, hp, hh, hprinted⟩ := hs
  have hentry : postCheckOf s.params .rdDevid = .nothing := congrArg PostChecks.readDeviceId hprinted
  obtain ⟨t, ht, hadv, hlatches, hcnt⟩ := init_sampled hs hk hends
  rw [herr, if_neg Bool.false_ne_true, initAfterPowerUp] at ht
  rw [← hq] at hadv
  have hsent : Calls t 1 [s.xferAt q (rd3Frame s.params 0x09)] (t.exchanged (rd3Frame s.params 0x09)).proceed :=
    (sendFrame_ok_at hadv hh hp .rdDevid ha).2.trans_zero (.proceed _)
  have hdone := hadv.trans hsent.toAdvance
  have hidentify : identityCheck t = .ok ((t.exchanged (rd3Frame s.params 0x09)).proceed.setEndAddress
      (endAddrOf v)) := by
    have hvariant : (t.exchanged (rd3Frame s.params 0x09)).proceed.chipVariant = v.code := hdone.handle.1.trans hchip
    have hparams : (t.exchanged (rd3Frame s.params 0x09)).proceed.params = s.params := hdone.params
    rw [identityCheck_sent hadv hh hp hentry ha, identify, hvariant, variantOfCode_code, hid, hparams]
    exact if_pos rfl
  exact ⟨_, by rw [ht, hidentify, andThen_ok], hdone.setEndAddress _,
    latchesAfter_of_statusKept hlatches hsent.status, hsent.cnt.trans hcnt⟩

/-- An INIT that raises at `t` ends after the two closes (R252, D31). `r` is `s`, or `s` with its end address
written. -/
theorem init_raises {r t : State} {e : ErrCode} {n : Nat} {done : List Event}
    (hbody : initBody (s.setSeq .commandIssued) = releaseAndRaise e t) (h : Advance r n done t)
    (hh : r.hang = none) :
    ∃ u, execHost .init s = .next u ∧ initRaises r u e done n ∧ handleKept t u ∧ statusKept t u
      ∧ u.timeoutCnt = t.timeoutCnt := by
  obtain ⟨u, hu, hclosed⟩ := releaseAndRaise_at h hh e
  have hend := endedAt_endErr e u
  obtain ⟨htrace, -, hinst, hapc⟩ := hend.advance (h.trans hclosed.toAdvance)
  obtain ⟨-, hhandle, -⟩ := hend.advance hclosed.toAdvance
  exact ⟨_, by rw [hostInit_eq_finish hs, hbody, hu]; rfl,
    ⟨hend.ended, hinst, hapc, by rw [htrace, List.append_assoc]⟩, hhandle,
    statusKept_trans hclosed.status hend.status, hend.cnt.trans hclosed.cnt⟩

end

/-! ## The obligation -/

/-- Settles O45: `init_identified`, and the chip's RESET goes on to the ready handle. -/
theorem initBringsTheEngineToReady : Obligations.InitBringsTheEngineToReady := by
  intro s v k q hs hchip hk hq hports hends herr hid
  have ⟨_, _, _, hp, hh, hprinted⟩ := hs
  have hentry : postCheckOf s.params .reset = .settle 100 := congrArg PostChecks.reset hprinted
  obtain ⟨t, ht, hadv, hlatches, hcnt⟩ := init_identified hs hk hq hends herr (hports q (by omega)) hchip hid
  obtain ⟨u, hu, hreset⟩ := tryReset_sent hadv hh hp hentry (hports (q + 1) (by omega))
  have hend := endedAt_endOk u.markReady none
  have hready := (hadv.trans hreset.toAdvance).markReady
  obtain ⟨htrace, ⟨hchip', haddr, hvol, hinit, hint⟩, hinst, hapc⟩ := hend.advance hready
  refine ⟨_, by rw [hostInit_eq_finish hs, ht, initLastSteps, hu]; rfl, hend.ended, hinit, haddr, hvol, hchip', hint,
    latchesAfter_of_statusKept hlatches (statusKept_trans hreset.status hend.status),
    (hend.cnt.trans hreset.cnt).trans hcnt, hinst, hapc, ?_⟩
  simpa using htrace

end Sys2Proof.Machine
end

section
/-! Proofs. An INIT that returns `Ok`, whatever the ports answer (45_session.md R258 (a), (c), (d)): what each step that
goes on has added to the trace, read off backwards from the end of the operation. A port may hang later, so these facts
take no premise on `hang`. -/

namespace Sys2Proof.Machine

/-! ## What a step that goes on has added to the trace -/

theorem portReturns_ok {s t : State} (h : portReturns s = .ok t) : ∃ n, t = s.setHang n := by
  have hquiet := portReturns_quiet s
  rwa [h] at hquiet

/-- A port call is one event, which holds its success bit (R9). -/
theorem portCall_event (event : Bool → Event) (s : State) :
    (portCall event s).satCode fun e t => t.trace = s.trace ++ [event (decide (e = .ok))] := by
  unfold portCall
  cases hr : portReturns s with
  | stuck => trivial
  | err e t => exact absurd hr (portReturns_ne_err e)
  | ok t =>
      obtain ⟨n, rfl⟩ := portReturns_ok hr
      rw [andThen_ok]
      split <;> simp [Res.satCode]

theorem portCall_ok_trace {event : Bool → Event} {s t : State} (h : portCall event s = .ok t) :
    t.trace = s.trace ++ [event true] := by
  have hevent := portCall_event event s
  rwa [h] at hevent

theorem delay_trace (ms : Nat) (s : State) : (delay ms s).sat fun t => t.trace = s.trace ++ delayEvents ms := by
  unfold delay delayEvents
  split
  · simp
  · cases hr : portReturns s with
    | stuck => trivial
    | err e t => exact absurd hr (portReturns_ne_err e)
    | ok t =>
        obtain ⟨n, rfl⟩ := portReturns_ok hr
        rfl

theorem delay_ok_trace {ms : Nat} {s t : State} (h : delay ms s = .ok t) : t.trace = s.trace ++ delayEvents ms := by
  have htrace := delay_trace ms s
  rwa [h] at htrace

/-- A frame that succeeds is an exchange at the state where the port call returned (R122). -/
theorem sendFrame_ok_exchanged {i : Instr} {s t : State} (hp : s.params.valid = true) (h : sendFrame i s = .ok t) :
    ∃ n, t = (s.setHang n).exchanged (encodeWith s.params i) := by
  have hlen := encodeWith_length_le s.params hp i
  obtain ⟨u, hu, h⟩ := andThen_ok_iff.1 h
  obtain ⟨n, rfl⟩ := portReturns_ok hu
  have hload : (s.loadFrame (encodeWith s.params i)).setHang n = (s.setHang n).loadFrame (encodeWith s.params i) := rfl
  rw [hload, wireFrame_loadFrame _ hlen] at h
  split at h
  · cases h
    refine ⟨n, ?_⟩
    simp [State.exchanged, State.receive, State.emit, loadFrame_dropAnswer, loadFrame_answer, State.xferAt,
      toNat_length hlen]
  · cases h

/-- It is one `Xfer`, whose received bytes are in `RXBUF` (R122). -/
theorem sendFrame_ok_trace {i : Instr} {s t : State} (hp : s.params.valid = true) (h : sendFrame i s = .ok t) :
    ∃ rx, t.trace = s.trace ++ [Event.xfer ((encodeWith s.params i).map bitrev8) rx]
      ∧ (2 < (encodeWith s.params i).length → t.rxbuf[2] = bitrev8 (rx.getD 2 0)) := by
  obtain ⟨n, rfl⟩ := sendFrame_ok_exchanged hp h
  refine ⟨_, rfl, fun h2 => ?_⟩
  have hbyte : ((s.setHang n).exchanged (encodeWith s.params i)).rxbuf[2] = (s.setHang n).rxAt 0 2 :=
    exchanged_rxbuf (s.setHang n) (encodeWith_length_le s.params hp i) 2 h2
  rw [hbyte, State.rxAt]
  simp [List.getD_eq_getElem?_getD, h2]

/-! ## The wait -/

/-- A wait that goes on handed at least one status frame to the PHY (R145). -/
theorem pollLoop_ok_polls {mask : Byte} {settle n : Nat} {s t : State} (hp : s.params.valid = true)
    (h : pollLoop mask settle n s = .ok t) :
    ∃ es, t.trace = s.trace ++ es ∧ 1 ≤ sentCount ((rd3Frame s.params 0x05).map bitrev8) es := by
  cases n with
  | zero => cases h
  | succ n =>
      obtain ⟨u, hu, h⟩ := andThen_ok_iff.1 h
      have hpass := sample_onePass settle s hp
      rw [hu] at hpass
      obtain ⟨-, ⟨c, -, es, htrace, hcount, -⟩, -⟩ := hpass
      split at h
      · cases h
        exact ⟨es, htrace, hcount.ge⟩
      · obtain ⟨v, hv, h⟩ := andThen_ok_iff.1 h
        have hrest := pollLoop_ends mask settle n ((v.setTimeoutCnt (v.timeoutCnt - 1)).setSeq .polling) rfl
        rw [h] at hrest
        obtain ⟨fs, hfs, -⟩ := hrest.1.trace
        rw [State.setSeq_trace, State.setTimeoutCnt_trace, delay_ok_trace hv, htrace] at hfs
        refine ⟨es ++ delayEvents 10 ++ fs, by rw [hfs]; simp only [List.append_assoc], ?_⟩
        rw [sentCount_append, sentCount_append]
        omega

theorem checkPoll_ok_polls {mask : Byte} {timeout settle : Nat} {s t : State} (hp : s.params.valid = true)
    (h : checkPoll mask timeout settle s = .ok t) :
    ∃ es, t.trace = s.trace ++ delayEvents settle ++ es
      ∧ 1 ≤ sentCount ((rd3Frame s.params 0x05).map bitrev8) es := by
  obtain ⟨u, hu, h⟩ := andThen_ok_iff.1 h
  have hquiet := delay_sat settle s
  rw [hu] at hquiet
  have hparams : u.params = s.params := hquiet.inst.2.2.1
  obtain ⟨es, htrace, hcount⟩ := pollLoop_ok_polls (by simpa [hparams] using hp) h
  refine ⟨es, by rw [← delay_ok_trace hu]; exact htrace, ?_⟩
  simpa [hparams] using hcount

/-! ## The steps of INIT -/

theorem openPorts_ok_trace {s t : State} (h : openPorts s = .ok t) :
    t.trace = s.trace ++ [Event.phyInit true, .gpioInit true] := by
  obtain ⟨u, hu, h⟩ := andThen_ok_iff.1 h
  cases hr : gpioInit u with
  | ok v =>
      rw [hr] at h
      cases h
      rw [portCall_ok_trace hr, portCall_ok_trace hu, List.append_assoc]
      rfl
  | err e v =>
      rw [hr] at h
      obtain ⟨w, -, hw⟩ := andThen_ok_iff.1 h
      cases hw
  | stuck =>
      rw [hr] at h
      cases h

theorem resetPulse_ok_trace {s t : State} (h : resetPulse s = .ok t) :
    t.trace = s.trace ++ [Event.gpioWrite true true, .delay 1, .gpioWrite false true, .delay 1] := by
  obtain ⟨c, h, hd⟩ := andThen_ok_iff.1 h
  obtain ⟨b, h, hc⟩ := andThen_ok_iff.1 h
  obtain ⟨a, ha, hb⟩ := andThen_ok_iff.1 h
  rw [delay_ok_trace hd, portCall_ok_trace (orRelease_ok.1 hc), delay_ok_trace hb,
    portCall_ok_trace (orRelease_ok.1 ha)]
  simp [delayEvents]

theorem proceed_ok {r : Res} {t : State} (h : r.proceed = .ok t) : ∃ u, r = .ok u ∧ t = u.proceed := by
  obtain ⟨u, hu, h⟩ := andThen_ok_iff.1 h
  cases h
  exact ⟨u, hu, rfl⟩

theorem tryCommand_ok {i : Instr} {s t : State} (h : tryCommand i s = .ok t) :
    ∃ u v, sendFrame i s = .ok u ∧ runPostCheck (postCheckOf s.params i) u = .ok v ∧ t = v.proceed := by
  obtain ⟨v, hv, rfl⟩ := proceed_ok (orRelease_ok.1 h)
  obtain ⟨u, hu, hv⟩ := andThen_ok_iff.1 hv
  exact ⟨u, v, hu, hv, rfl⟩

/-- What the identification goes on with: the handle's variant, whose id the device-id frame carried (R252, R279). -/
theorem identityCheck_ok {s t : State} (h : identityCheck s = .ok t) :
    ∃ u w v, sendFrame .rdDevid s = .ok u ∧ (runPostCheck (postCheckOf u.params .rdDevid) u).proceed = .ok w
      ∧ variantOfCode w.chipVariant = some v ∧ rxDeviceId u.rxbuf = deviceIdOf w.params v
      ∧ t = w.setEndAddress (endAddrOf v) := by
  obtain ⟨u, hu, h⟩ := andThen_ok_iff.1 h
  obtain ⟨w, hw, h⟩ := andThen_ok_iff.1 h
  obtain ⟨v, hv, hid, rfl⟩ := identify_ok h
  exact ⟨u, w, v, orRelease_ok.1 hu, orRelease_ok.1 hw, hv, hid, rfl⟩

theorem eq_code_of_variantOfCode {c : VariantCode} {v : Variant} (h : variantOfCode c = some v) : c = v.code := by
  unfold variantOfCode at h
  split at h <;> cases h
  all_goals exact BitVec.eq_of_toNat_eq ‹_›

section
variable {s t : State} (hp : s.params.valid = true) (hprinted : s.params.postCheck = PostChecks.printed)
include hp hprinted

/-- Step 5 at the printed table: the power-up frame, 100 ms, and the wait for ready. -/
theorem tryPowerUp_ok_trace (h : tryCommand .pu s = .ok t) :
    ∃ puRx poll, t.trace = s.trace ++ [Event.xfer ((cmdFrame s.params 0x01).map bitrev8) puRx, .delay 100] ++ poll
      ∧ 1 ≤ sentCount ((rd3Frame s.params 0x05).map bitrev8) poll := by
  have hentry : postCheckOf s.params .pu = .poll (.flag .rdy) 1000 100 := congrArg PostChecks.powerUp hprinted
  obtain ⟨u, v, hu, hv, rfl⟩ := tryCommand_ok h
  obtain ⟨puRx, htrace, -⟩ := sendFrame_ok_trace hp hu
  have hparams : u.params = s.params := by
    have hquiet := sendFrame_sat .pu s
    rw [hu] at hquiet
    exact hquiet.inst.2.2.1
  rw [hentry] at hv
  obtain ⟨poll, hpoll, hcount⟩ := checkPoll_ok_polls (by rwa [hparams]) hv
  rw [hparams] at hcount
  refine ⟨puRx, poll, ?_, hcount⟩
  rw [State.proceed_trace, hpoll, htrace]
  simp [delayEvents, encodeWith_cmd s.params (i := .pu) rfl]

/-- Steps 6 to 8 at the printed table: the device-id frame carries the id of the handle's variant. -/
theorem identityCheck_ok_trace (h : identityCheck s = .ok t) :
    ∃ idRx v, t.trace = s.trace ++ [Event.xfer ((rd3Frame s.params 0x09).map bitrev8) idRx]
      ∧ bitrev8 (idRx.getD 2 0) >>> 3 = deviceIdOf s.params v ∧ s.chipVariant = v.code
      ∧ t.endAddress = endAddrOf v := by
  obtain ⟨u, w, v, hu, hw, hv, hid, rfl⟩ := identityCheck_ok h
  have hquiet := sendFrame_sat .rdDevid s
  rw [hu] at hquiet
  have hparams : u.params = s.params := hquiet.inst.2.2.1
  have hentry : postCheckOf u.params .rdDevid = .nothing := by
    rw [hparams]; exact congrArg PostChecks.readDeviceId hprinted
  rw [hentry] at hw
  obtain ⟨_, hnothing, rfl⟩ := proceed_ok hw
  cases hnothing
  obtain ⟨idRx, htrace, hbyte⟩ := sendFrame_ok_trace hp hu
  have hlen : 2 < (rd3Frame s.params 0x09).length := by
    rw [length_rd3Frame s.params hp]; exact (lRd3_bounds hp).1
  have hmask : rxDeviceId u.rxbuf = u.rxbuf[2] >>> 3 := BitVec.and_allOnes
  rw [hmask, hbyte hlen, State.proceed_params, hparams] at hid
  rw [State.proceed_chipVariant, hquiet.handle.1] at hv
  exact ⟨idRx, v, by rw [State.setEndAddress_trace, State.proceed_trace]; exact htrace, hid,
    eq_code_of_variantOfCode hv, rfl⟩

/-- Step 9 at the printed table: the frame of the chip's RESET and 100 ms. -/
theorem tryReset_ok_trace (h : tryCommand .reset s = .ok t) :
    ∃ resetRx, t.trace = s.trace ++ [Event.xfer ((cmdFrame s.params 0x03).map bitrev8) resetRx, .delay 100] := by
  have hentry : postCheckOf s.params .reset = .settle 100 := congrArg PostChecks.reset hprinted
  obtain ⟨u, v, hu, hv, rfl⟩ := tryCommand_ok h
  obtain ⟨resetRx, htrace, -⟩ := sendFrame_ok_trace hp hu
  rw [hentry] at hv
  refine ⟨resetRx, ?_⟩
  rw [State.proceed_trace, delay_ok_trace hv, htrace]
  simp [delayEvents, encodeWith_cmd s.params (i := .reset) rfl]

end

/-! ## The operation -/

/-- What INIT comes to, when it ends: its body ran at a not initialized engine. -/
theorem hostInit_next {s t : State} (h : execHost .init s = .next t) :
    s.initialized = false
      ∧ ((t.result = .ok ∧ ∃ u, initBody (s.setSeq .commandIssued) = .ok u ∧ t = u.endOk none)
        ∨ (t.result ≠ .ok ∧ ∃ e u, initBody (s.setSeq .commandIssued) = .err e u ∧ t = u.endErr e)) := by
  by_cases hrefused : s.seq = .idle ∧ s.initialized = true
  · have hinit : execHost .init s = .refused .initWhileInitialized := if_pos hrefused
    rw [hinit] at h
    cases h
  · rw [hostInit_of_not_refused hrefused] at h
    obtain ⟨hseq, hends⟩ := operation_next h
    refine ⟨by simpa [hseq] using hrefused, hends.imp ?_ ?_⟩
    · rintro ⟨u, hu, rfl⟩
      exact ⟨State.endOk_result _ _, u, hu, rfl⟩
    · rintro ⟨e, u, hu, rfl⟩
      have hraised := initBody_ends (s.setSeq .commandIssued) rfl
      rw [hu] at hraised
      rw [State.endErr_result]
      exact ⟨raisedAt_ne_ok hraised.2, e, u, hu, rfl⟩

theorem initBody_ok {s t : State} (h : initBody s = .ok t) :
    ∃ a b c d e, openPorts s = .ok a ∧ resetPulse a = .ok b ∧ tryCommand .pu b = .ok c ∧ identityCheck c = .ok d
      ∧ tryCommand .reset d = .ok e ∧ t = e.markReady := by
  cases hb : s.bindingsOk with
  | false =>
      rw [initBody, hb] at h
      cases h
  | true =>
      rw [initBody_eq_steps hb] at h
      obtain ⟨a, ha, h⟩ := andThen_ok_iff.1 h
      obtain ⟨b, hb, h⟩ := andThen_ok_iff.1 h
      obtain ⟨c, hc, h⟩ := andThen_ok_iff.1 h
      obtain ⟨d, hd, h⟩ := andThen_ok_iff.1 h
      obtain ⟨e, he, h⟩ := andThen_ok_iff.1 h
      cases h
      exact ⟨a, b, c, d, e, ha, hb, hc, hd, he, rfl⟩

/-- What a step of INIT that goes on keeps. -/
theorem kept_of_ok {s t : State} {r : Res} (h : r = .ok t) (hends : EndsWell s (· = .commandIssued) r)
    (hhandle : r.sat (handleKept s)) :
    t.params = s.params ∧ t.chipVariant = s.chipVariant ∧ t.seq = .commandIssued := by
  subst h
  obtain ⟨hmoves, hseq⟩ := hends
  exact ⟨hmoves.inst.2.2.1, hhandle.1, hseq⟩

/-! ## The obligation -/

/-- Settles O46: the trace of the five steps, one after another. -/
theorem initOkMeansTheHandshakePassed : Obligations.InitOkMeansTheHandshakePassed := by
  intro s t hp hprinted hexec hok
  obtain ⟨-, ⟨-, u, hu, rfl⟩ | ⟨hne, -⟩⟩ := hostInit_next hexec
  swap
  · exact absurd hok hne
  obtain ⟨a, b, c, d, e, ha, hb, hc, hd, he, rfl⟩ := initBody_ok hu
  obtain ⟨hpa, hva, hqa⟩ := kept_of_ok ha (openPorts_ends _ rfl) (openPorts_handle _)
  obtain ⟨hpb, hvb, hqb⟩ := kept_of_ok hb (resetPulse_ends _ hqa) (resetPulse_handle _)
  obtain ⟨hpc, hvc, hqc⟩ := kept_of_ok hc (tryCommand_ends .pu _ hqb) (tryCommand_handle .pu _)
  have hparams_b : b.params = s.params := hpb.trans hpa
  have hparams_c : c.params = s.params := hpc.trans hparams_b
  have hidentity := identityCheck_ends c hqc
  rw [hd] at hidentity
  have hparams_d : d.params = s.params := hidentity.1.inst.2.2.1.trans hparams_c
  obtain ⟨puRx, poll, hpoll, hcount⟩ := tryPowerUp_ok_trace (hparams_b ▸ hp) (hparams_b ▸ hprinted) hc
  obtain ⟨idRx, v, hid, hbyte, hchip, haddr⟩ :=
    identityCheck_ok_trace (hparams_c ▸ hp) (hparams_c ▸ hprinted) hd
  obtain ⟨resetRx, hreset⟩ := tryReset_ok_trace (hparams_d ▸ hp) (hparams_d ▸ hprinted) he
  have hkept := tryCommand_handle .reset d
  rw [he] at hkept
  obtain ⟨-, haddr', -⟩ := hkept
  rw [hparams_b] at hpoll hcount
  rw [hparams_c] at hid hbyte
  rw [hparams_d] at hreset
  refine ⟨v, puRx, idRx, resetRx, poll, ?_, ?_, ?_, ?_, hbyte, hcount, ?_⟩
  · exact ((hvc.trans hvb).trans hva).symm.trans hchip
  · rw [State.endOk_initialized, State.markReady_initialized]
  · rw [State.endOk_endAddress, State.markReady_endAddress, haddr', haddr]
  · rw [State.endOk_volSrc, State.markReady_volSrc]
  · rw [State.endOk_trace, State.markReady_trace, hreset, hid, hpoll, resetPulse_ok_trace hb, openPorts_ok_trace ha]
    simp

end Sys2Proof.Machine
end

section
/-! Proofs. An INIT that raises, whatever the ports answer (45_session.md R258 (b), R252). Up to step 8 every step keeps
the handle and sends no frame of the chip's RESET (`BeforeReset`); a step from the reset pulse on that raises has closed
both ports as its last two calls (`closesLast`). -/

namespace Sys2Proof.Machine

/-! ## Up to the frame of the chip's RESET -/

/-- The wire bytes of the chip's RESET (R204). -/
def resetWire (p : Params) : List Byte := (cmdFrame p 0x03).map bitrev8

/-- From `s` to `t` the handle is kept and no frame of the chip's RESET is handed to the PHY. -/
structure BeforeReset (s t : State) : Prop where
  handle : handleKept s t
  params : t.params = s.params
  trace : ∃ es, t.trace = s.trace ++ es ∧ (s.params.valid = true → sentCount (resetWire s.params) es = 0)

theorem sentCount_eq_zero_iff {w : List Byte} {es : List Event} :
    sentCount w es = 0 ↔ ∀ e ∈ es, e.sent ≠ some w := by
  simp [sentCount, List.filter_eq_nil_iff]

namespace BeforeReset

theorem of_trace_eq {s t : State} (hhandle : handleKept s t) (hparams : t.params = s.params)
    (htrace : t.trace = s.trace) : BeforeReset s t :=
  ⟨hhandle, hparams, [], by simp [htrace], fun _ => rfl⟩

theorem refl (s : State) : BeforeReset s s := of_trace_eq (handleKept_refl s) rfl rfl

theorem trans {s t u : State} (h : BeforeReset s t) (k : BeforeReset t u) : BeforeReset s u := by
  obtain ⟨es, htrace, hes⟩ := h.trace
  obtain ⟨fs, ktrace, hfs⟩ := k.trace
  rw [h.params] at hfs
  exact ⟨handleKept_trans h.handle k.handle, k.params.trans h.params, es ++ fs,
    by rw [ktrace, htrace, List.append_assoc], fun hp => by rw [sentCount_append, hes hp, hfs hp]⟩

theorem of_quiet {s t : State} {e : Event} (h : Quiet s t) (htrace : t.trace = s.trace ++ [e])
    (he : e.sent ≠ some (resetWire s.params)) : BeforeReset s t :=
  ⟨h.handle, h.inst.2.2.1, [e], htrace, fun _ => by rw [sentCount_singleton, if_neg he]⟩

end BeforeReset

theorem beforeReset_chain {r : Res} {k : State → Res} {s : State} (h : r.sat (BeforeReset s))
    (hk : ∀ t, (k t).sat (BeforeReset t)) : (r.andThen k).sat (BeforeReset s) :=
  Res.sat_chain (R := BeforeReset) BeforeReset.trans h hk

theorem sat_of_satCode {r : Res} {P : ErrCode → State → Prop} (h : r.satCode P) : r.sat fun t => ∃ e, P e t := by
  cases r with
  | ok t => exact ⟨.ok, h⟩
  | err e t => exact ⟨e, h⟩
  | stuck => trivial

/-- A port call that hands no frame to the PHY. -/
theorem portCall_beforeReset {event : Bool → Event} (hsent : ∀ b, (event b).sent = none) (s : State) :
    (portCall event s).sat (BeforeReset s) :=
  Res.sat_mono (Res.sat_and (portCall_sat event hsent s) (sat_of_satCode (portCall_event event s)))
    fun _ ⟨hquiet, _, htrace⟩ => .of_quiet hquiet htrace (by simp [hsent])

theorem delay_beforeReset (ms : Nat) (s : State) : (delay ms s).sat (BeforeReset s) := by
  refine Res.sat_mono (Res.sat_and (delay_sat ms s) (delay_trace ms s)) fun t ⟨hquiet, htrace⟩ =>
    ⟨hquiet.handle, hquiet.inst.2.2.1, _, htrace, fun _ => ?_⟩
  unfold delayEvents
  split <;> rfl

/-- Two frames with different opcodes differ on the wire. -/
theorem wire_ne_resetWire {i : Instr} (hi : opcodeOf i ≠ 0x03) (p : Params) :
    (encodeWith p i).map bitrev8 ≠ resetWire p := by
  obtain ⟨payload, hframe⟩ := encodeWith_eq_opcodeOf_cons p i
  intro h
  have hhead := congrArg List.head? h
  simp only [hframe, resetWire, cmdFrame, List.map_cons, List.head?_cons, Option.some.injEq] at hhead
  exact hi (bitrev8_injective hhead)

theorem sendFrame_beforeReset {i : Instr} (hi : opcodeOf i ≠ 0x03) (s : State) :
    (sendFrame i s).sat (BeforeReset s) := by
  by_cases hp : s.params.valid = true
  · refine Res.sat_mono (Res.sat_and (sendFrame_sat i s) (sendFrame_sent i s hp)) ?_
    rintro t ⟨hquiet, e, htrace, hsent⟩
    exact .of_quiet hquiet htrace (by simpa [hsent] using wire_ne_resetWire hi s.params)
  · refine Res.sat_mono (sendFrame_sat i s) fun t hquiet => ?_
    obtain ⟨es, htrace, -⟩ := hquiet.trace
    exact ⟨hquiet.handle, hquiet.inst.2.2.1, es, htrace, fun hv => absurd hv hp⟩

theorem statusRead_beforeReset (settle : Nat) (s : State) : (statusRead settle s).sat (BeforeReset s) := by
  refine beforeReset_chain (sendFrame_beforeReset (by decide) s) fun t => ?_
  have hlatch : BeforeReset t t.latchStatus := .of_trace_eq (by simp [handleKept]) rfl rfl
  split
  · have hclear := beforeReset_chain (sendFrame_beforeReset (i := .clrInt) (by decide) t.latchStatus)
      (delay_beforeReset settle)
    exact Res.sat_mono hclear fun _ => hlatch.trans
  · exact hlatch

theorem checkCmdErr_beforeReset (s : State) : (checkCmdErr s).sat (BeforeReset s) := by
  unfold checkCmdErr
  split
  · exact .of_trace_eq (by simp [handleKept]) rfl rfl
  · exact .refl s

theorem pollLoop_beforeReset (mask : Byte) (settle n : Nat) (s : State) :
    (pollLoop mask settle n s).sat (BeforeReset s) := by
  induction n generalizing s with
  | zero => exact .of_trace_eq (by simp [handleKept]) rfl rfl
  | succ n ih =>
      refine beforeReset_chain (beforeReset_chain (statusRead_beforeReset settle s) checkCmdErr_beforeReset) fun t => ?_
      split
      · exact .refl t
      · refine beforeReset_chain (delay_beforeReset 10 t) fun u => ?_
        have hnext : BeforeReset u ((u.setTimeoutCnt (u.timeoutCnt - 1)).setSeq .polling) :=
          .of_trace_eq (by simp [handleKept]) rfl rfl
        exact Res.sat_mono (ih _) fun _ => hnext.trans

/-- A post-check sends status frames and clear-interrupt frames only (R142, R200). -/
theorem runPostCheck_beforeReset (c : PostCheck) (s : State) : (runPostCheck c s).sat (BeforeReset s) := by
  cases c with
  | nothing => exact .refl s
  | settle ms => exact delay_beforeReset ms s
  | errorCheck wait =>
      have hread := beforeReset_chain (delay_beforeReset wait s) (statusRead_beforeReset wait)
      exact beforeReset_chain hread checkCmdErr_beforeReset
  | poll mask timeout wait =>
      refine beforeReset_chain (delay_beforeReset wait s) fun t => ?_
      have hload : BeforeReset t ((t.setTimeoutCnt (timeoutLoad timeout)).setSeq .polling) :=
        .of_trace_eq (by simp [handleKept]) rfl rfl
      exact Res.sat_mono (pollLoop_beforeReset _ _ _ _) fun _ => hload.trans

theorem proceed_beforeReset {r : Res} {s : State} (h : r.sat (BeforeReset s)) : r.proceed.sat (BeforeReset s) :=
  beforeReset_chain h fun t => .of_trace_eq (by simp [handleKept]) (by simp) (by simp)

theorem command_beforeReset {i : Instr} (hi : opcodeOf i ≠ 0x03) (s : State) : (command i s).sat (BeforeReset s) :=
  beforeReset_chain (sendFrame_beforeReset hi s) (runPostCheck_beforeReset _)

/-! ## `RELEASE()` closes both ports -/

/-- The last two events at `t`, after those at `s`, are the closes of PHY and GPIO. -/
def closesLast (s t : State) : Prop := ∃ es b c, t.trace = s.trace ++ es ++ [Event.phyDeinit b, .gpioDeinit c]

theorem closesLast_of_beforeReset {s t u : State} (h : BeforeReset s t) (k : closesLast t u) : closesLast s u := by
  obtain ⟨es, htrace, -⟩ := h.trace
  obtain ⟨fs, b, c, ktrace⟩ := k
  exact ⟨es ++ fs, b, c, by rw [ktrace, htrace]; simp only [List.append_assoc]⟩

/-- `s` and `u` before and after a part that raised: it sent no frame of the chip's RESET and closed both ports. -/
def unwound (s u : State) : Prop := BeforeReset s u ∧ closesLast s u

theorem unwound_of_beforeReset {s t u : State} (h : BeforeReset s t) (k : unwound t u) : unwound s u :=
  ⟨h.trans k.1, closesLast_of_beforeReset h k.2⟩

/-- What a part of INIT comes to: it goes on before the chip's RESET, or it raises with both ports closed. -/
def Unwinds (s : State) (r : Res) : Prop :=
  match r with
  | .ok t => BeforeReset s t
  | .err _ u => unwound s u
  | .stuck => True

theorem Unwinds.andThen {s : State} {r : Res} {k : State → Res} (h : Unwinds s r) (hk : ∀ t, Unwinds t (k t)) :
    Unwinds s (r.andThen k) := by
  cases r with
  | stuck => trivial
  | err e u => exact h
  | ok t =>
      have hrest := hk t
      rw [andThen_ok]
      cases hr : k t with
      | stuck => trivial
      | ok u => rw [hr] at hrest; exact BeforeReset.trans h hrest
      | err e u => rw [hr] at hrest; exact unwound_of_beforeReset h hrest

/-- A port call that hands no frame to the PHY, and its event. -/
theorem portCall_oneEvent {event : Bool → Event} (hsent : ∀ b, (event b).sent = none) (s : State) :
    (portCall event s).sat fun t => BeforeReset s t ∧ ∃ b, t.trace = s.trace ++ [event b] :=
  Res.sat_and (portCall_beforeReset hsent s)
    (Res.sat_mono (sat_of_satCode (portCall_event event s)) fun _ ⟨_, htrace⟩ => ⟨_, htrace⟩)

theorem ignoreErr_ne_err (r : Res) (e : ErrCode) (t : State) : r.ignoreErr ≠ .err e t := by
  cases r <;> simp

theorem release_unwound (s : State) : (release s).sat (unwound s) := by
  have hphy := Res.sat_ignoreErr (portCall_oneEvent (event := .phyDeinit) (fun _ => rfl) s)
  rw [release, phyDeinit]
  cases hr : (portCall .phyDeinit s).ignoreErr with
  | stuck => trivial
  | err e t => exact absurd hr (ignoreErr_ne_err _ _ _)
  | ok t =>
      rw [hr] at hphy
      obtain ⟨hreset, b, htrace⟩ := hphy
      refine Res.sat_mono (Res.sat_ignoreErr (portCall_oneEvent (event := .gpioDeinit) (fun _ => rfl) t)) ?_
      rintro u ⟨kreset, c, ktrace⟩
      exact ⟨hreset.trans kreset, [], b, c, by rw [ktrace, htrace]; simp⟩

theorem releaseAndRaise_unwinds (e : ErrCode) (s : State) : Unwinds s (releaseAndRaise e s) := by
  have hback : BeforeReset s s.backToIssued := .of_trace_eq (by simp [handleKept]) (by simp) (by simp)
  have hrelease := release_unwound s.backToIssued
  unfold releaseAndRaise
  cases hr : release s.backToIssued with
  | stuck => trivial
  | err e u => exact absurd hr (release_ne_err _ _ _)
  | ok u =>
      rw [hr] at hrelease
      exact unwound_of_beforeReset hback hrelease

theorem releaseAndRaise_ne_ok (e : ErrCode) (s t : State) : releaseAndRaise e s ≠ .ok t := fun h => by
  obtain ⟨u, -, hu⟩ := andThen_ok_iff.1 h
  cases hu

/-- `try X` of a part `X` before the chip's RESET. -/
theorem orRelease_unwinds {s : State} {r : Res} (h : r.sat (BeforeReset s)) : Unwinds s r.orRelease := by
  cases r with
  | ok t => exact h
  | stuck => trivial
  | err e t =>
      have hraise := releaseAndRaise_unwinds e t
      rw [Res.orRelease]
      cases hr : releaseAndRaise e t with
      | ok u => exact absurd hr (releaseAndRaise_ne_ok _ _ _)
      | stuck => trivial
      | err e' u => rw [hr] at hraise; exact unwound_of_beforeReset h hraise

/-! ## The steps of INIT before the chip's RESET -/

theorem delay_ne_err (ms : Nat) (s t : State) (e : ErrCode) : delay ms s ≠ .err e t := by
  unfold delay
  split
  · simp
  · cases hr : portReturns s with
    | err e' u => exact absurd hr (portReturns_ne_err e')
    | ok u => simp
    | stuck => simp

theorem delay_unwinds (ms : Nat) (s : State) : Unwinds s (delay ms s) := by
  have hdelay := delay_beforeReset ms s
  cases hr : delay ms s with
  | ok t => rw [hr] at hdelay; exact hdelay
  | err e t => exact absurd hr (delay_ne_err _ _ _ _)
  | stuck => trivial

/-- The ports are opened, and PHY closed again where GPIO does not open, before the chip's RESET. -/
theorem openPorts_beforeReset (s : State) : (openPorts s).sat (BeforeReset s) := by
  refine beforeReset_chain (portCall_beforeReset (fun _ => rfl) s) fun t => ?_
  have hgpio : (gpioInit t).sat (BeforeReset t) := portCall_beforeReset (fun _ => rfl) t
  cases hr : gpioInit t with
  | ok u => rw [hr] at hgpio; exact hgpio
  | stuck => trivial
  | err e u =>
      rw [hr] at hgpio
      have hclose := Res.sat_ignoreErr (portCall_beforeReset (event := .phyDeinit) (fun _ => rfl) u)
      exact beforeReset_chain (Res.sat_mono hclose fun _ => BeforeReset.trans hgpio) .refl

theorem resetPulse_unwinds (s : State) : Unwinds s (resetPulse s) := by
  have hwrite (level : Bool) (t : State) : Unwinds t (gpioWrite level t).orRelease :=
    orRelease_unwinds (portCall_beforeReset (fun _ => rfl) t)
  exact (((hwrite true s).andThen (delay_unwinds 1)).andThen (hwrite false)).andThen (delay_unwinds 1)

theorem tryCommand_unwinds {i : Instr} (hi : opcodeOf i ≠ 0x03) (s : State) : Unwinds s (tryCommand i s) :=
  orRelease_unwinds (proceed_beforeReset (command_beforeReset hi s))

theorem andThen_err_iff {r : Res} {k : State → Res} {e : ErrCode} {u : State} :
    r.andThen k = .err e u ↔ r = .err e u ∨ ∃ t, r = .ok t ∧ k t = .err e u := by
  cases r <;> simp

section
variable {s t u : State} {r : Res} {e : ErrCode}

theorem Unwinds.of_err (h : Unwinds s r) (hr : r = .err e u) : unwound s u := by
  subst hr; exact h

theorem Unwinds.of_ok (h : Unwinds s r) (hr : r = .ok t) : BeforeReset s t := by
  subst hr; exact h

theorem identify_err {id : Byte} (h : identify id s = .err e u) : unwound s u := by
  unfold identify at h
  split at h
  · exact (releaseAndRaise_unwinds _ s).of_err h
  · split at h
    · cases h
    · exact (releaseAndRaise_unwinds _ s).of_err h

/-- The frame and the post-check of step 6 (R252). -/
theorem deviceIdFrame_unwinds (s : State) : Unwinds s (sendFrame .rdDevid s).orRelease :=
  orRelease_unwinds (sendFrame_beforeReset (by decide) s)

theorem postCheck_unwinds (c : PostCheck) (s : State) : Unwinds s (runPostCheck c s).proceed.orRelease :=
  orRelease_unwinds (proceed_beforeReset (runPostCheck_beforeReset c s))

theorem identityCheck_err (h : identityCheck s = .err e u) : unwound s u := by
  obtain h | ⟨t, ht, h⟩ := andThen_err_iff.1 h
  · exact (deviceIdFrame_unwinds s).of_err h
  have hframe := (deviceIdFrame_unwinds s).of_ok ht
  obtain h | ⟨v, hv, h⟩ := andThen_err_iff.1 h
  · exact unwound_of_beforeReset hframe ((postCheck_unwinds _ t).of_err h)
  · exact unwound_of_beforeReset (hframe.trans ((postCheck_unwinds _ t).of_ok hv)) (identify_err h)

/-- The identification writes the end address of the handle's variant, and nothing before it. -/
theorem identityCheck_ok_beforeReset (h : identityCheck s = .ok t) :
    ∃ w v, BeforeReset s w ∧ s.chipVariant = v.code ∧ t = w.setEndAddress (endAddrOf v) := by
  obtain ⟨u, w, v, hu, hw, hv, -, rfl⟩ := identityCheck_ok h
  have hframe := (deviceIdFrame_unwinds s).of_ok (orRelease_ok.2 hu)
  have hreset := hframe.trans ((postCheck_unwinds _ u).of_ok (orRelease_ok.2 hw))
  rw [hreset.handle.1] at hv
  exact ⟨w, v, hreset, eq_code_of_variantOfCode hv, rfl⟩

/-! ## The chip's RESET -/

/-- A frame of the chip's RESET, sent or failed, is among the events from `s` to `t`. -/
def resetSent (s t : State) : Prop :=
  ∃ es, t.trace = s.trace ++ es ∧ (s.params.valid = true → sentCount (resetWire s.params) es ≠ 0)

theorem resetSent_of_beforeReset (h : BeforeReset s t) (k : resetSent t u) : resetSent s u := by
  obtain ⟨es, htrace, -⟩ := h.trace
  obtain ⟨fs, ktrace, hsent⟩ := k
  rw [h.params] at hsent
  exact ⟨es ++ fs, by rw [ktrace, htrace, List.append_assoc], fun hp => by
    rw [sentCount_append]; have := hsent hp; omega⟩

theorem resetSent_extended (h : resetSent s t) (k : BeforeReset t u) : resetSent s u := by
  obtain ⟨es, htrace, hsent⟩ := h
  obtain ⟨fs, ktrace, -⟩ := k.trace
  exact ⟨es ++ fs, by rw [ktrace, htrace, List.append_assoc], fun hp => by
    rw [sentCount_append]; have := hsent hp; omega⟩

theorem sendReset_resetSent (s : State) : (sendFrame .reset s).sat (resetSent s) := by
  by_cases hp : s.params.valid = true
  · refine Res.sat_mono (sendFrame_sent .reset s hp) fun t ⟨e, htrace, hsent⟩ => ⟨[e], htrace, fun _ => ?_⟩
    have hwire : e.sent = some (resetWire s.params) := hsent
    rw [sentCount_singleton, if_pos hwire]
    exact Nat.one_ne_zero
  · refine Res.sat_mono (sendFrame_sat .reset s) fun t hquiet => ?_
    obtain ⟨es, htrace, -⟩ := hquiet.trace
    exact ⟨es, htrace, fun hv => absurd hv hp⟩

theorem resetCommand_resetSent (s : State) : (command .reset s).proceed.sat (resetSent s) := by
  have hcommand : (command .reset s).sat (resetSent s) :=
    Res.sat_andThen (sendReset_resetSent s) (fun _ h => h) fun t ht =>
      Res.sat_mono (runPostCheck_beforeReset _ t) fun _ => resetSent_extended ht
  exact Res.sat_andThen hcommand (fun _ h => h) fun t ht =>
    resetSent_extended ht (.of_trace_eq (by simp [handleKept]) (by simp) (by simp))

/-- `s` and `u` before and after a part that raised in step 9: the end address is that of the handle's variant. -/
def raisedAtReset (s u : State) : Prop :=
  closesLast s u ∧ resetSent s u ∧ ∃ v : Variant, s.chipVariant = v.code ∧ u.endAddress = endAddrOf v

theorem raisedAtReset_of_beforeReset (h : BeforeReset s t) (k : raisedAtReset t u) : raisedAtReset s u := by
  obtain ⟨hcloses, hsent, v, hchip, haddr⟩ := k
  exact ⟨closesLast_of_beforeReset h hcloses, resetSent_of_beforeReset h hsent, v,
    h.handle.1.symm.trans hchip, haddr⟩

theorem tryReset_err (h : tryCommand .reset s = .err e u) :
    closesLast s u ∧ resetSent s u ∧ u.endAddress = s.endAddress := by
  have hkept := tryCommand_handle .reset s
  rw [h] at hkept
  have hsent := resetCommand_resetSent s
  rw [tryCommand] at h
  cases hr : (command .reset s).proceed with
  | ok t => rw [hr] at h; cases h
  | stuck => rw [hr] at h; cases h
  | err e' t =>
      rw [hr] at h hsent
      obtain ⟨hreset, fs, b, c, ktrace⟩ := (releaseAndRaise_unwinds e' t).of_err h
      obtain ⟨es, htrace, -⟩ := id hsent
      obtain ⟨-, haddr, -⟩ := hkept
      exact ⟨⟨es ++ fs, b, c, by rw [ktrace, htrace]; simp only [List.append_assoc]⟩,
        resetSent_extended hsent hreset, haddr⟩

theorem initAfterPowerUp_err (h : initAfterPowerUp s = .err e u) : unwound s u ∨ raisedAtReset s u := by
  obtain h | ⟨t, ht, h⟩ := andThen_err_iff.1 h
  · exact .inl (identityCheck_err h)
  obtain ⟨w, v, hreset, hchip, rfl⟩ := identityCheck_ok_beforeReset ht
  obtain h | ⟨_, -, h⟩ := andThen_err_iff.1 h
  · obtain ⟨hcloses, hsent, haddr⟩ := tryReset_err h
    exact .inr (raisedAtReset_of_beforeReset hreset ⟨hcloses, hsent, v, hreset.handle.1.trans hchip, haddr⟩)
  · cases h

end

/-! ## Every port that was opened is closed -/

theorem closedAfter_of_none {opened closed : Event → Bool} {es : List Event} (h : ∀ e ∈ es, opened e = false) :
    closedAfter opened closed es := by
  rintro before e after rfl hopened
  have hnot := h e (by simp)
  rw [hopened] at hnot
  cases hnot

/-- Events that open nothing and of which one closes, at the end of a trace. -/
theorem closedAfter_append {opened closed : Event → Bool} {es tail : List Event}
    (hopen : ∀ e ∈ tail, opened e = false) (hclose : ∃ c ∈ tail, closed c = true) :
    closedAfter opened closed (es ++ tail) := by
  intro before e after heq hopened
  have hnot : e ∉ tail := fun he => by
    have hclosed := hopen e he
    rw [hopened] at hclosed
    cases hclosed
  obtain ⟨gap, -, htail⟩ | ⟨gap, -, hgap⟩ := List.append_eq_append_iff.1 heq
  · exact absurd (htail ▸ by simp) hnot
  · cases gap with
    | nil =>
        have htail : e :: after = tail := hgap
        exact absurd (htail ▸ by simp) hnot
    | cons x gap =>
        obtain ⟨rfl, rfl⟩ := List.cons.inj hgap
        obtain ⟨c, hc, hclosed⟩ := hclose
        exact ⟨c, List.mem_append_right gap hc, hclosed⟩

/-- After every port that was opened stands its close (R258 (b)). -/
def portsClosed (es : List Event) : Prop :=
  closedAfter (fun e => decide (e = .phyInit true)) Event.isPhyClose es
    ∧ closedAfter (fun e => decide (e = .gpioInit true)) Event.isPhyClose es
    ∧ closedAfter (fun e => decide (e = .gpioInit true)) Event.isGpioClose es

theorem portsClosed_of_none {es : List Event} (h : ∀ e ∈ es, e ≠ .phyInit true ∧ e ≠ .gpioInit true) :
    portsClosed es :=
  ⟨closedAfter_of_none fun e he => decide_eq_false (h e he).1,
    closedAfter_of_none fun e he => decide_eq_false (h e he).2,
    closedAfter_of_none fun e he => decide_eq_false (h e he).2⟩

/-- The trace from `s` to `u` closes every port that it opens. -/
def closesPorts (s u : State) : Prop := ∃ es, u.trace = s.trace ++ es ∧ portsClosed es

theorem closesPorts_of_closesLast {s u : State} (h : closesLast s u) : closesPorts s u := by
  obtain ⟨es, b, c, htrace⟩ := h
  refine ⟨es ++ [Event.phyDeinit b, .gpioDeinit c], by rw [htrace, List.append_assoc], ?_, ?_, ?_⟩
  · exact closedAfter_append (by simp) ⟨.phyDeinit b, by simp, rfl⟩
  · exact closedAfter_append (by simp) ⟨.phyDeinit b, by simp, rfl⟩
  · exact closedAfter_append (by simp) ⟨.gpioDeinit c, by simp, rfl⟩

theorem portCall_err_trace {event : Bool → Event} {s t : State} {e : ErrCode} (h : portCall event s = .err e t) :
    t.trace = s.trace ++ [event false] := by
  have hevent := portCall_event event s
  have hplain := portCall_plain event s
  rw [h] at hevent hplain
  obtain ⟨hne, -⟩ := hplain
  have hfalse : decide (e = .ok) = false := decide_eq_false hne
  exact hfalse ▸ hevent

/-- A PHY that does not open is not closed; PHY is closed where GPIO does not open (R252, D31). -/
theorem openPorts_err_closesPorts {s u : State} {e : ErrCode} (h : openPorts s = .err e u) : closesPorts s u := by
  obtain h | ⟨t, ht, h⟩ := andThen_err_iff.1 h
  · exact ⟨_, portCall_err_trace h, portsClosed_of_none (by simp)⟩
  cases hr : gpioInit t with
  | ok v => rw [hr] at h; cases h
  | stuck => rw [hr] at h; cases h
  | err e' v =>
      rw [hr] at h
      obtain h | ⟨w, hw, h⟩ := andThen_err_iff.1 h
      · exact absurd h (ignoreErr_ne_err _ _ _)
      cases h
      have hclose := Res.sat_ignoreErr (portCall_oneEvent (event := .phyDeinit) (fun _ => rfl) v)
      rw [← phyDeinit, hw] at hclose
      obtain ⟨-, b, htrace⟩ := hclose
      refine ⟨[.phyInit true, .gpioInit false] ++ [Event.phyDeinit b], ?_,
        closedAfter_append (by simp) ⟨_, List.mem_singleton_self _, rfl⟩,
        closedAfter_of_none (by simp), closedAfter_of_none (by simp)⟩
      rw [htrace, portCall_err_trace hr, portCall_ok_trace ht]
      simp

/-- What INIT has done when it raises: before the chip's RESET or in it, and with its ports closed (R252). -/
theorem initBody_err {s u : State} {e : ErrCode} (h : initBody s = .err e u) :
    closesPorts s u ∧ (BeforeReset s u ∨ raisedAtReset s u) := by
  cases hb : s.bindingsOk with
  | false =>
      rw [initBody, hb] at h
      cases h
      exact ⟨⟨[], by simp, portsClosed_of_none (by simp)⟩, .inl (.refl s)⟩
  | true =>
      rw [initBody_eq_steps hb] at h
      obtain h | ⟨a, ha, h⟩ := andThen_err_iff.1 h
      · exact ⟨openPorts_err_closesPorts h, .inl (h ▸ openPorts_beforeReset s :)⟩
      have hopen : BeforeReset s a := (ha ▸ openPorts_beforeReset s :)
      have hunwound {t} (h : BeforeReset s t) (k : unwound t u) :
          closesPorts s u ∧ (BeforeReset s u ∨ raisedAtReset s u) :=
        have hreset := unwound_of_beforeReset h k
        ⟨closesPorts_of_closesLast hreset.2, .inl hreset.1⟩
      obtain h | ⟨b, hb, h⟩ := andThen_err_iff.1 h
      · exact hunwound hopen ((resetPulse_unwinds a).of_err h)
      have hpulse := hopen.trans ((resetPulse_unwinds a).of_ok hb)
      obtain h | ⟨c, hc, h⟩ := andThen_err_iff.1 h
      · exact hunwound hpulse ((tryCommand_unwinds (by decide) b).of_err h)
      have hpower := hpulse.trans ((tryCommand_unwinds (by decide) b).of_ok hc)
      obtain h | h := initAfterPowerUp_err h
      · exact hunwound hpower h
      · have hraised := raisedAtReset_of_beforeReset hpower h
        exact ⟨closesPorts_of_closesLast hraised.1, .inr hraised⟩

/-- An INIT that raises writes no handle register but `END_ADDRESS`. -/
theorem initBody_err_butEndAddress {s u : State} {e : ErrCode} (h : initBody s = .err e u) :
    handleKeptButEndAddress s u := by
  have hparts := initParts_butEndAddress s
  rw [initBody_eq] at h
  obtain h | ⟨_, -, h⟩ := andThen_err_iff.1 h
  · rwa [h] at hparts
  · cases h

/-- R258 (b) and R252 of every failed INIT, whatever the ports answer. -/
theorem hostInit_err {s t : State} (hexec : execHost .init s = .next t) (hne : t.result ≠ .ok) :
    t.initialized = false ∧ t.volSrc = s.volSrc ∧ t.chipVariant = s.chipVariant
      ∧ t.interruptDone = s.interruptDone
      ∧ ∃ es, t.trace = s.trace ++ es ∧ portsClosed es ∧ (s.params.valid = true →
        (sentCount (resetWire s.params) es = 0 → t.endAddress = s.endAddress)
        ∧ (sentCount (resetWire s.params) es ≠ 0 →
          ∃ v : Variant, s.chipVariant = v.code ∧ t.endAddress = endAddrOf v)) := by
  obtain ⟨hinit, ⟨hok, -⟩ | ⟨-, e, u, hu, rfl⟩⟩ := hostInit_next hexec
  · exact absurd hok hne
  obtain ⟨hchip, -, hvol, hinit', hint⟩ := initBody_err_butEndAddress hu
  obtain ⟨⟨es, htrace, hclosed⟩, hends⟩ := initBody_err hu
  have hsame {fs} (h : u.trace = s.trace ++ fs) : fs = es := List.append_cancel_left (h.symm.trans htrace)
  simp only [State.endErr_initialized, State.endErr_volSrc, State.endErr_chipVariant, State.endErr_interruptDone,
    State.endErr_trace, State.endErr_endAddress]
  refine ⟨hinit'.trans hinit, hvol, hchip, hint, es, htrace, hclosed, fun hp => ?_⟩
  obtain ⟨⟨-, haddr, -⟩, -, fs, hfs, hsent⟩ | ⟨-, ⟨fs, hfs, hsent⟩, hvariant⟩ := hends
  · obtain rfl := hsame hfs
    exact ⟨fun _ => haddr, fun h => absurd (hsent hp) h⟩
  · obtain rfl := hsame hfs
    exact ⟨fun h => absurd h (hsent hp), fun _ => hvariant⟩

end Sys2Proof.Machine
end

section
/-! Proofs. INIT that fails, with the answers of the ports given (45_session.md R252, D31): one lemma per failing step,
in the order of the pseudocode. -/

namespace Sys2Proof.Machine

section
variable {s : State} (hs : s.canInit)
include hs

/-- An INIT that raises while it opens the ports: no `RELEASE()` (R252, D31). -/
theorem init_openFails {u : State} {e : ErrCode} {n : Nat} {es : List Event}
    (hopen : openPorts (s.setSeq .commandIssued) = .err e u) (h : Calls s n es u) :
    ∃ t, execHost .init s = .next t ∧ endedWith t e ∧ commandFrame s t ∧ t.trace = s.trace ++ es := by
  have ⟨_, _, hb, _⟩ := hs
  have hsteps := initBody_eq_steps (s := s.setSeq .commandIssued) hb
  rw [hopen, andThen_err] at hsteps
  have hend := endedAt_endErr e u
  exact ⟨_, by rw [hostInit_eq_finish hs, hsteps]; rfl, hend.ended, hend.commandFrame h.toAdvance h.status h.cnt,
    (hend.advance h.toAdvance).1⟩

theorem init_phyFails (ha : (s.answerAt 0).ok = false) :
    ∃ t, execHost .init s = .next t ∧ endedWith t .communicationFailure ∧ commandFrame s t
      ∧ t.trace = s.trace ++ [Event.phyInit false] := by
  have ⟨_, _, _, _, hh, _⟩ := hs
  have hstart := Calls.setSeq s .commandIssued
  exact init_openFails hs (openPorts_phyFails hstart.toAdvance hh ha) (hstart.trans (.called _ _))

theorem init_gpioFails (hports : s.portsOk 1) (ha : (s.answerAt 1).ok = false) :
    ∃ t, execHost .init s = .next t ∧ endedWith t .communicationFailure ∧ commandFrame s t
      ∧ t.trace = s.trace ++ [Event.phyInit true, .gpioInit false, .phyDeinit (s.answerAt 2).ok] := by
  have ⟨_, _, _, _, hh, _⟩ := hs
  have hstart := Calls.setSeq s .commandIssued
  obtain ⟨u, hu, hclosed⟩ := openPorts_gpioFails hstart.toAdvance hh (hports 0 (by omega)) ha
  exact init_openFails hs hu (hstart.trans hclosed)

/-- An INIT that raises before it has read the status (R252). -/
theorem init_raises_unsampled {t : State} {e : ErrCode} {n : Nat} {done : List Event}
    (hbody : initBody (s.setSeq .commandIssued) = releaseAndRaise e t) (h : Calls s n done t) :
    ∃ u, execHost .init s = .next u ∧ commandFrame s u ∧ initRaises s u e done n := by
  have ⟨_, _, _, _, hh, _⟩ := hs
  obtain ⟨u, hu, hraises, hhandle, hstatus, hcnt⟩ := init_raises hs hbody h.toAdvance hh
  have ⟨_, hinst, hapc, _⟩ := hraises
  exact ⟨u, hu, ⟨handleKept_trans h.handle hhandle, statusKept_trans h.status hstatus, hinst, hcnt.trans h.cnt,
    hapc⟩, hraises⟩

theorem init_highFails (hports : s.portsOk 2) (ha : (s.answerAt 2).ok = false) :
    ∃ t, execHost .init s = .next t ∧ commandFrame s t ∧ initRaises s t .communicationFailure
      [.phyInit true, .gpioInit true, .gpioWrite true false] 3 := by
  have ⟨_, _, _, _, hh, _⟩ := hs
  obtain ⟨t, ht, hopen⟩ := init_opened hs hports
  rw [resetPulse_highFails hopen.toAdvance hh ha, releaseAndRaise_andThen] at ht
  exact init_raises_unsampled hs ht (hopen.trans (.called t _))

theorem init_lowFails (hports : s.portsOk 3) (ha : (s.answerAt 3).ok = false) :
    ∃ t, execHost .init s = .next t ∧ commandFrame s t ∧ initRaises s t .communicationFailure
      [.phyInit true, .gpioInit true, .gpioWrite true true, .delay 1, .gpioWrite false false] 4 := by
  have ⟨_, _, _, _, hh, _⟩ := hs
  obtain ⟨t, ht, hopen⟩ := init_opened hs (portsOk_mono hports (by omega))
  obtain ⟨u, hu, hlow⟩ := resetPulse_lowFails hopen.toAdvance hh (hports 2 (by omega)) ha
  rw [hu, releaseAndRaise_andThen] at ht
  exact init_raises_unsampled hs ht (hopen.trans hlow)

theorem init_powerUpFrameFails (hports : s.portsOk 4) (ha : (s.answerAt 4).ok = false) :
    ∃ t, execHost .init s = .next t ∧ commandFrame s t ∧ initRaises s t .communicationFailure
      (openEvents ++ [Event.xferFail ((cmdFrame s.params 0x01).map bitrev8)]) 5 := by
  have ⟨_, _, _, hp, hh, _⟩ := hs
  obtain ⟨t, ht, hpulsed⟩ := init_pulsed hs hports
  rw [tryCommand_frameFails hpulsed.toAdvance hh hp .pu ha, releaseAndRaise_andThen] at ht
  exact init_raises_unsampled hs ht (hpulsed.trans (.exchangeFailed t _))

/-- An INIT that raises after its wait: the latches and the counter are what the wait left. `r` is `s`, or `s` with
its end address written. -/
theorem init_raises_after {r t : State} {e : ErrCode} {n k m : Nat} {done : List Event}
    (hbody : initBody (s.setSeq .commandIssued) = releaseAndRaise e t) (h : Advance r n done t) (hh : r.hang = none)
    (hlatches : latchesAfter s t 5 k) (hcnt : t.timeoutCnt = m) :
    ∃ u, execHost .init s = .next u ∧ latchesAfter s u 5 k ∧ u.timeoutCnt = m ∧ u.endAddress = r.endAddress
      ∧ initRaises r u e done n := by
  obtain ⟨u, hu, hraises, hhandle, hstatus, hcnt'⟩ := init_raises hs hbody h hh
  have ⟨_, haddr, _⟩ := handleKept_trans h.handle hhandle
  exact ⟨u, hu, latchesAfter_of_statusKept hlatches hstatus, hcnt'.trans hcnt, haddr, hraises⟩

theorem init_raises_sampled {t : State} {e : ErrCode} {n k m : Nat} {done : List Event}
    (hbody : initBody (s.setSeq .commandIssued) = releaseAndRaise e t) (h : Advance s n done t)
    (hlatches : latchesAfter s t 5 k) (hcnt : t.timeoutCnt = m) :
    ∃ u, execHost .init s = .next u ∧ latchesAfter s u 5 k ∧ u.timeoutCnt = m ∧ initRaises s u e done n := by
  have ⟨_, _, _, _, hh, _⟩ := hs
  obtain ⟨u, hu, hlatches', hcnt', -, hraises⟩ := init_raises_after hs hbody h hh hlatches hcnt
  exact ⟨u, hu, hlatches', hcnt', hraises⟩

theorem init_waitBreaks {k : Nat} (hk : k < 100) (hbreaks : s.waitBreaks 5 k (s2Mask s.params .rdy)) :
    ∃ t, execHost .init s = .next t
      ∧ latchesAfter s t 5 (if (s.answerAt (s.sampleAt 5 k)).ok then k + 1 else k) ∧ t.timeoutCnt = 100 - k
      ∧ initRaises s t .communicationFailure
        (s.powerUpEvents ++ s.waitEvents 5 k 100 ++ s.failedReadEvents (s.sampleAt 5 k))
        (s.sampleAt 5 k + if (s.answerAt (s.sampleAt 5 k)).ok then 2 else 1) := by
  have ⟨_, _, _, hp, hh, _⟩ := hs
  obtain ⟨t, ht, hpowered⟩ := init_poweredUp hs (portsOk_mono hbreaks.1 (le_sampleAt s 5 k))
  obtain ⟨u, hu, hadv, hlatches, hcnt⟩ :=
    checkPoll_breaks_counted hpowered.toAdvance hh hp hpowered.status _ 100 (init_timeout_lt hs) hk hbreaks
  rw [powerUpEvents_eq] at hadv
  rw [hu] at ht
  exact init_raises_sampled hs (ht.trans (releaseAndRaise_andThen _ u _)) hadv hlatches hcnt

theorem init_waitExpires (hexpires : s.waitExpires 5 100 (s2Mask s.params .rdy)) :
    ∃ t, execHost .init s = .next t ∧ latchesAfter s t 5 100 ∧ t.timeoutCnt = 0
      ∧ initRaises s t .timeout (s.powerUpEvents ++ s.waitEvents 5 100 100) (s.sampleAt 5 100) := by
  have ⟨_, _, _, hp, hh, _⟩ := hs
  obtain ⟨t, ht, hpowered⟩ := init_poweredUp hs (portsOk_mono hexpires.1 (le_sampleAt s 5 100))
  obtain ⟨u, hu, hadv, hlatches, hcnt⟩ :=
    checkPoll_expires hpowered.toAdvance hpowered.status hh hp _ 100 (init_timeout_lt hs) hexpires
  rw [powerUpEvents_eq] at hadv
  rw [hu] at ht
  exact init_raises_sampled hs (ht.trans (releaseAndRaise_andThen _ u _)) hadv hlatches hcnt

section
variable {k q : Nat} (hk : k < 100) (hq : q = s.sampleAt 5 (k + 1))
variable (hends : s.waitEnds 5 k (s2Mask s.params .rdy))
include hk hq hends

theorem init_commandError (herr : s.cmdErrAt (s.sampleAt 5 k) = true) :
    ∃ t, execHost .init s = .next t ∧ latchesAfter s t 5 (k + 1) ∧ t.timeoutCnt = 100 - k
      ∧ initRaises s t .chipReportedError
        (s.powerUpEvents ++ s.waitEvents 5 k 100 ++ s.statusEvents (s.sampleAt 5 k) 100) q := by
  obtain ⟨t, ht, hadv, hlatches, hcnt⟩ := init_sampled hs hk hends
  rw [herr, if_pos rfl] at ht
  rw [← hq] at hadv
  exact init_raises_sampled hs ht hadv hlatches hcnt

variable (herr : s.cmdErrAt (s.sampleAt 5 k) = false)
include herr

theorem init_idFrameFails (ha : (s.answerAt q).ok = false) :
    ∃ t, execHost .init s = .next t ∧ latchesAfter s t 5 (k + 1) ∧ t.timeoutCnt = 100 - k
      ∧ initRaises s t .communicationFailure
        (s.powerUpEvents ++ s.waitEvents 5 k 100 ++ s.statusEvents (s.sampleAt 5 k) 100
          ++ [Event.xferFail ((rd3Frame s.params 0x09).map bitrev8)]) (q + 1) := by
  have ⟨_, _, _, hp, hh, _⟩ := hs
  obtain ⟨t, ht, hadv, hlatches, hcnt⟩ := init_sampled hs hk hends
  rw [herr, if_neg Bool.false_ne_true, initAfterPowerUp] at ht
  rw [← hq] at hadv
  rw [identityCheck_frameFails hadv hh hp ha, releaseAndRaise_andThen] at ht
  have hfailed := Calls.exchangeFailed t (rd3Frame s.params 0x09)
  exact init_raises_sampled hs ht (hadv.trans hfailed.toAdvance)
    (latchesAfter_of_statusKept hlatches hfailed.status) (hfailed.cnt.trans hcnt)

theorem init_resetFrameFails {v : Variant} (hchip : s.chipVariant = v.code) (ha : (s.answerAt q).ok = true)
    (hid : s.rxAt q 2 >>> 3 = deviceIdOf s.params v) (hb : (s.answerAt (q + 1)).ok = false) :
    ∃ t, execHost .init s = .next t ∧ latchesAfter s t 5 (k + 1) ∧ t.timeoutCnt = 100 - k
      ∧ t.endAddress = endAddrOf v
      ∧ initRaises s t .communicationFailure
        (s.powerUpEvents ++ s.waitEvents 5 k 100 ++ s.statusEvents (s.sampleAt 5 k) 100
          ++ [s.xferAt q (rd3Frame s.params 0x09), .xferFail ((cmdFrame s.params 0x03).map bitrev8)])
        (q + 2) := by
  have ⟨_, _, _, hp, hh, _⟩ := hs
  obtain ⟨t, ht, hadv, hlatches, hcnt⟩ := init_identified hs hk hq hends herr ha hchip hid
  rw [initLastSteps, tryCommand_frameFails hadv hh hp .reset hb, releaseAndRaise_andThen] at ht
  have hfailed := Calls.exchangeFailed t (cmdFrame s.params 0x03)
  obtain ⟨u, hu, hlatches', hcnt', haddr, hraises⟩ := init_raises_after hs ht (hadv.trans hfailed.toAdvance) hh
    (latchesAfter_of_statusKept hlatches hfailed.status) (hfailed.cnt.trans hcnt)
  rw [List.append_assoc] at hraises
  exact ⟨u, hu, hlatches', hcnt', haddr, hraises⟩

end

end

/-! ## The obligation -/

/-- Settles O47: `hostInit_err` for every failed INIT, and the failing steps in the order of the pseudocode. -/
theorem failedInitReleasesItsPorts : Obligations.FailedInitReleasesItsPorts := by
  refine ⟨fun s t hexec hne => ?_, fun s hs => ⟨init_phyFails hs, init_gpioFails hs, init_highFails hs,
    init_lowFails hs, init_powerUpFrameFails hs, ?_, init_waitExpires hs, fun k q hk hq hends =>
      ⟨init_commandError hs hk hq hends, init_idFrameFails hs hk hq hends,
        fun v hchip herr => init_resetFrameFails hs hk hq hends herr hchip⟩⟩⟩
  · obtain ⟨hinit, hvol, hchip, hint, es, htrace, ⟨hphy, hgpio, hgpio'⟩, haddr⟩ := hostInit_err hexec hne
    refine ⟨hinit, hvol, hchip, hint, es, htrace, hphy, hgpio, hgpio', fun hp => ?_⟩
    obtain ⟨hnone, hsome⟩ := haddr hp
    exact ⟨fun h => hnone (sentCount_eq_zero_iff.2 h),
      fun ⟨e, he, hsent⟩ => hsome fun h => sentCount_eq_zero_iff.1 h e he hsent⟩
  · rintro k p hk rfl
    exact init_waitBreaks hs hk

end Sys2Proof.Machine
end

section
/-! Proofs. The invariant of the engine (60_exceptions.md R290, 45_session.md R258 (d)). `Moves` already says how an
outside event moves the sequencer and the counter; what is left is the end address of an initialized engine, which only
an INIT that returns `Ok` has to bring. -/

namespace Sys2Proof.Machine

/-! ## The end address of an initialized engine -/

theorem endAddrOf_mem (v : Variant) : endAddrOf v ∈ endAddresses := by
  cases v <;> decide

/-- The identification writes an end address of the table (R66, R252). -/
theorem identityCheck_ok_endAddress {s t : State} (h : identityCheck s = .ok t) : t.endAddress ∈ endAddresses := by
  obtain ⟨u, w, v, -, -, -, -, rfl⟩ := identityCheck_ok h
  exact endAddrOf_mem v

/-- The chip's RESET, after the identification, keeps it. -/
theorem initBody_ok_endAddress {s t : State} (h : initBody s = .ok t) : t.endAddress ∈ endAddresses := by
  obtain ⟨_, _, _, d, e, -, -, -, hd, he, rfl⟩ := initBody_ok h
  have hreset := tryCommand_handle .reset d
  rw [he] at hreset
  obtain ⟨-, haddr, -⟩ := hreset
  rw [State.markReady_endAddress, haddr]
  exact identityCheck_ok_endAddress hd

/-- An INIT that leaves the engine initialized returned `Ok`, and so identified the chip (R258 (d)). -/
theorem hostInit_endAddress {s t : State} (h : execHost .init s = .next t) (ht : t.initialized = true) :
    t.endAddress ∈ endAddresses := by
  obtain ⟨-, ⟨-, u, hu, rfl⟩ | ⟨hne, -⟩⟩ := hostInit_next h
  · rw [State.endOk_endAddress]
    exact initBody_ok_endAddress hu
  · obtain ⟨hinit, -⟩ := hostInit_err h hne
    simp [hinit] at ht

/-- Outside INIT a write leaves the engine not initialized, or neither `INITIALIZED` nor `END_ADDRESS` changed. -/
theorem HandleWrite.clears_or_keeps {i : Option Input} {e : ErrCode} {write : State → State}
    (hw : HandleWrite i e write) (hi : i ≠ some (.op .init)) (s : State) :
    (write s).initialized = false
      ∨ ((write s).initialized = s.initialized ∧ (write s).endAddress = s.endAddress) := by
  cases hw with
  | identified | ready => exact absurd rfl hi
  | closed | engineReset => exact .inl rfl
  | nothing | setType | clrIntDone | irqHandler | setVolumeControl => exact .inr ⟨rfl, rfl⟩

/-- An initialized engine has an end address of the table (R21, R258 (d)). -/
def endAddressKnown (s : State) : Prop := s.initialized = true → s.endAddress ∈ endAddresses

theorem runInput_endAddressKnown {i : Input} {s t : State} (hs : endAddressKnown s) (h : runInput i s = .next t) :
    endAddressKnown t := by
  intro ht
  by_cases hi : i = .op .init
  · subst hi
    exact hostInit_endAddress h ht
  · obtain ⟨write, hw, -, haddr, -, hinit, -⟩ := runInput_written h
    rw [hinit] at ht
    rw [haddr]
    rcases hw.clears_or_keeps (by simpa using hi) s with hcleared | ⟨hkept, haddr'⟩
    · simp [hcleared] at ht
    · rw [haddr']
      exact hs (hkept ▸ ht)

/-! ## The invariant -/

/-- A move of the machine back to `Idle` keeps the invariant, up to the end address. -/
theorem inv_of_moves {s t : State} (hs : s.Inv) (h : Moves s t) (hidle : t.seq = .idle)
    (haddr : endAddressKnown t) : t.Inv := by
  obtain ⟨hseq, hlast, hlegal, -, hcnt⟩ := hs
  obtain ⟨-, -, hparams, -⟩ := h.inst
  obtain ⟨qs, hlog, hpath⟩ := h.path
  rw [hseq, hidle] at hpath
  obtain ⟨hlegal', hlast'⟩ := seqPathLegal_append hlegal hlast hpath
  exact ⟨hidle, by rw [hlog, hlast'], by rw [hlog, hlegal'], haddr, by rw [hparams]; exact h.cnt hcnt⟩

/-- An engine reset starts the path anew (R311). -/
theorem engineReset_inv (s : State) : s.engineReset.Inv :=
  ⟨rfl, rfl, rfl, nofun, Nat.two_pow_pos _⟩

theorem runInput_inv {i : Input} {s t : State} (hs : s.Inv) (h : runInput i s = .next t) : t.Inv := by
  have ⟨_, _, _, hknown, _⟩ := hs
  have haddr := runInput_endAddressKnown hknown h
  cases i with
  | frame bytes =>
      simp only [runInput] at h
      split at h
      · obtain ⟨hmoves, hidle⟩ := exec_moves h
        exact inv_of_moves hs hmoves hidle haddr
      · cases h; exact hs
  | op o =>
      obtain ⟨hmoves, hidle⟩ := execHost_moves h
      exact inv_of_moves hs hmoves hidle haddr
  | straps bindingsOk eventCbPresent => cases h; exact hs
  | engineReset => cases h; exact engineReset_inv s

/-! ## The obligation -/

/-- Settles O55: at an idle engine a step takes no event or runs one. -/
theorem stepKeepsTheInvariant : Obligations.StepKeepsTheInvariant := by
  intro s t hs h
  have ⟨hidle, _⟩ := hs
  rcases step_next h with ⟨-, -, rfl⟩ | ⟨i, rest, -, -, hrun⟩ | ⟨hterminal, -⟩
  · exact hs
  · exact runInput_inv (s := { s with inputs := rest }) hs hrun
  · simp [hidle] at hterminal

end Sys2Proof.Machine
end

section
/-! Proofs. The result codes that end an operation early (60_exceptions.md R272 to R280): an error raised before any port
call does nothing but end the operation, a first frame that fails is the operation's only event, and INIT rejects a
wrong chip after its device-id frame. -/

namespace Sys2Proof.Machine

/-! ## Errors before any port call -/

/-- An operation whose body raises at once, at the accepted request, does nothing (R272, R273, R280). -/
theorem operation_raises_at_once {s : State} {body : State → Res} {data : State → Option Data} {e : ErrCode}
    (hseq : s.seq = .idle) (hbody : body (s.setSeq .commandIssued) = .err e (s.setSeq .commandIssued)) :
    ∃ t, operation body data s = .next t ∧ endedWith t e ∧ nothingDone s t := by
  refine ⟨_, ?_, (endedAt_endErr e _).ended, nothingDone_setSeq_endErr s .commandIssued e⟩
  rw [operation, if_pos hseq, hbody]
  rfl

/-- As `operation_raises_at_once`, where the gate lets the operation through (R276). -/
theorem gated_raises_at_once {s : State} {body : State → Res} {data : State → Option Data} {e : ErrCode}
    (hseq : s.seq = .idle) (hinit : s.initialized = true)
    (hbody : body (s.setSeq .commandIssued) = .err e (s.setSeq .commandIssued)) :
    ∃ t, gated body data s = .next t ∧ endedWith t e ∧ nothingDone s t :=
  operation_raises_at_once hseq (body := fun u => (requireInit u).andThen body)
    (by simp [requireInit, hinit, hbody])

/-- Every row is gated (R215, R276). -/
theorem exec_isGated (i : Instr) (s : State) : ∃ body data, exec i s = gated body data s := by
  cases i <;> exact ⟨_, _, rfl⟩

/-- Every host operation but the five of the session without a gate is gated (R276). -/
theorem execHost_isGated {o : HostOp} (ho : o.isGated = true) (s : State) :
    ∃ body data, execHost o s = gated body data s := by
  cases o with
  | setType | getType | init | getIntDone | clrIntDone => exact absurd ho Bool.false_ne_true
  | _ => exact ⟨_, _, rfl⟩

/-- The gate comes before anything an operation does (R273, R276). -/
theorem gated_needs_init {s : State} (hseq : s.seq = .idle) (hinit : s.initialized = false)
    {body : State → Res} {data : State → Option Data} :
    ∃ t, gated body data s = .next t ∧ endedWith t .notInitialized ∧ nothingDone s t :=
  ⟨_, gated_of_not_initialized hseq hinit, (endedAt_endErr _ _).ended, nothingDone_setSeq_endErr s _ _⟩

/-- SET_VOLUME refuses a level above 7 where its body begins (R166). -/
theorem setVolume_of_high_level {s : State} {level : Byte} (hseq : s.seq = .idle) (hinit : s.initialized = true)
    (hlevel : 7 < level.toNat) :
    ∃ t, execHost (.setVolume level) s = .next t ∧ endedWith t .invalidArgument ∧ nothingDone s t := by
  have hhigh : level > 7 := hlevel
  exact gated_raises_at_once hseq hinit (if_pos hhigh)

/-! ## A first frame that fails -/

/-- `gated_firstFrameFails`, with `RXBUF` (R122). -/
theorem gated_firstFrameFails_rxbuf {s : State} {body : State → Res} {data : State → Option Data} {tx : List Byte}
    (hseq : s.seq = .idle) (hinit : s.initialized = true)
    (hbody : body (s.setSeq .commandIssued)
      = .err .communicationFailure ((s.setSeq .commandIssued).exchangeFailed tx)) :
    ∃ t, gated body data s = .next t ∧ endedWith t .communicationFailure ∧ commandFrame s t ∧ t.rxbuf = s.rxbuf
      ∧ t.trace = s.trace ++ [.xferFail (tx.map bitrev8)] := by
  obtain ⟨t, ht, hend, hkept, htrace⟩ := gated_firstFrameFails (data := data) hseq hinit hbody
  have hexec : gated body data s
      = .next (((s.setSeq .commandIssued).exchangeFailed tx).endErr .communicationFailure) := by
    rw [gated_of_initialized hseq hinit, hbody]
    rfl
  obtain rfl := Host.Outcome.next.inj (ht.symm.trans hexec)
  exact ⟨_, ht, hend, hkept, by simp, htrace⟩

/-- Every row begins with its frame, a range setter after its check, and raises where that raises (R274, R275). -/
theorem exec_begins_with_frame {s : State} {i : Instr} (hacc : s.accepts i) :
    ∃ body data, exec i s = gated body data s
      ∧ ∀ e u, sendFrame i (s.setSeq .commandIssued) = .err e u → body (s.setSeq .commandIssued) = .err e u := by
  cases i with
  | setPlay a b | setRec a b | setErase a b =>
      have hlegal : rangeLegal a b (s.setSeq .commandIssued).endAddress = true := hacc a b (by simp)
      refine ⟨_, _, rfl, fun e u hsend => ?_⟩
      rw [rangeCommand_of_legal _ hlegal, command, hsend, andThen_err]
  | rdStatus =>
      refine ⟨_, _, rfl, fun e u hsend => ?_⟩
      rw [statusRead, hsend, andThen_err]
  | rdApc =>
      refine ⟨_, _, rfl, fun e u hsend => ?_⟩
      rw [apcRead, hsend, andThen_err, andThen_err]
  | wrApcBtn w | wrApcReg w =>
      refine ⟨_, _, rfl, fun e u hsend => ?_⟩
      rw [apcWrite, hsend, andThen_err]
  | pu | stop | reset | clrInt | rdPlayPtr | pd | rdRecPtr | rdDevid | play | record | erase | gErase | wrNvcfg
  | ldNvcfg | fwd | chkMem | extclk =>
      refine ⟨_, _, rfl, fun e u hsend => ?_⟩
      rw [command, hsend, andThen_err]

/-! ## INIT rejects the wrong chip -/

/-- The codes up to 9 are those of the table (R20). -/
theorem variantOfCode_isSome : ∀ c : VariantCode, c.toNat ≤ 9 → (variantOfCode c).isSome := by
  decide

/-- What steps 7 and 8 of INIT raise (R279). -/
def rejectCode (c : VariantCode) : ErrCode := if 9 < c.toNat then .unknownVariant else .identityMismatch

/-- The identification of a chip whose id is not that of the handle's variant: the test of the code comes first. -/
theorem identify_rejects {s : State} {id : Byte}
    (h : ∀ v : Variant, s.chipVariant = v.code → id ≠ deviceIdOf s.params v) :
    identify id s = releaseAndRaise (rejectCode s.chipVariant) s := by
  rcases Nat.lt_or_ge 9 s.chipVariant.toNat with hhigh | hlow
  · rw [identify, variantOfCode_eq_none hhigh, rejectCode, if_pos hhigh]
  · obtain ⟨v, hv⟩ := Option.isSome_iff_exists.1 (variantOfCode_isSome s.chipVariant hlow)
    have hid := h v (eq_code_of_variantOfCode hv)
    simp only [identify, hv, if_neg hid, rejectCode, if_neg (Nat.not_lt.2 hlow)]

/-- Steps 1 to 7 of INIT, where the chip does not report the id of the handle's variant. -/
theorem init_rejected {s : State} (hs : s.canInit) {k q : Nat} (hk : k < 100) (hq : q = s.sampleAt 5 (k + 1))
    (hends : s.waitEnds 5 k (s2Mask s.params .rdy)) (herr : s.cmdErrAt (s.sampleAt 5 k) = false)
    (ha : (s.answerAt q).ok = true)
    (hid : ∀ v : Variant, s.chipVariant = v.code → s.rxAt q 2 >>> 3 ≠ deviceIdOf s.params v) :
    ∃ t, initBody (s.setSeq .commandIssued) = releaseAndRaise (rejectCode s.chipVariant) t
      ∧ Advance s (q + 1) (s.powerUpEvents ++ s.waitEvents 5 k 100
          ++ s.statusEvents (s.sampleAt 5 k) 100 ++ [s.xferAt q (rd3Frame s.params 0x09)]) t
      ∧ latchesAfter s t 5 (k + 1) ∧ t.timeoutCnt = 100 - k := by
  have ⟨_, _, _, hp, hh, hprinted⟩ := hs
  have hentry : postCheckOf s.params .rdDevid = .nothing := congrArg PostChecks.readDeviceId hprinted
  obtain ⟨t, ht, hadv, hlatches, hcnt⟩ := init_sampled hs hk hends
  rw [herr, if_neg Bool.false_ne_true, initAfterPowerUp] at ht
  rw [← hq] at hadv
  have hsent : Calls t 1 [s.xferAt q (rd3Frame s.params 0x09)] (t.exchanged (rd3Frame s.params 0x09)).proceed :=
    (sendFrame_ok_at hadv hh hp .rdDevid ha).2.trans_zero (.proceed _)
  have hdone := hadv.trans hsent.toAdvance
  have hchip : (t.exchanged (rd3Frame s.params 0x09)).proceed.chipVariant = s.chipVariant := hdone.handle.1
  rw [identityCheck_sent hadv hh hp hentry ha, identify_rejects (by rwa [hchip, hdone.params]), hchip,
    releaseAndRaise_andThen] at ht
  exact ⟨_, ht, hdone, latchesAfter_of_statusKept hlatches hsent.status, hsent.cnt.trans hcnt⟩

/-! ## The obligations -/

/-- Settles O48: the strap is the first thing that the pseudocode of INIT tests. -/
theorem missingBindingStopsInitAtOnce : Obligations.MissingBindingStopsInitAtOnce := by
  intro s hseq hinit hb
  rw [hostInit_of_not_refused (by simp [hinit])]
  exact operation_raises_at_once hseq (by simp [initBody, hb])

/-- Settles O51: every row and every gated operation is a `gated` body. -/
theorem gatedOperationsNeedInit : Obligations.GatedOperationsNeedInit := by
  refine fun s hseq hinit => ⟨fun i => ?_, fun o ho => ?_⟩
  · obtain ⟨body, data, hexec⟩ := exec_isGated i s
    exact hexec ▸ gated_needs_init hseq hinit
  · obtain ⟨body, data, hexec⟩ := execHost_isGated ho s
    exact hexec ▸ gated_needs_init hseq hinit

/-- Settles O25: both checks come before the first frame. -/
theorem invalidArgumentsSendNothing : Obligations.InvalidArgumentsSendNothing := by
  refine fun s hseq hinit => ⟨fun a b i hi hillegal => ?_, fun level => setVolume_of_high_level hseq hinit⟩
  have hexec : exec i s = gated (rangeCommand i a b) noData s := by fin_cases hi <;> rfl
  exact exec_of_illegal_range hexec hseq hinit hillegal

/-- Settles O52: the body of a row raises where its frame does. -/
theorem failedFrameEndsTheCommand : Obligations.FailedFrameEndsTheCommand := by
  intro s i ⟨hseq, hinit, hp, hh⟩ ha hacc
  obtain ⟨body, data, hexec, hbegins⟩ := exec_begins_with_frame hacc
  rw [hexec]
  exact gated_firstFrameFails_rxbuf hseq hinit
    (hbegins _ _ (sendFrame_failed (s.setSeq .commandIssued) i hh hp ha))

/-- Settles O49: `init_rejected`, and the raise after the two closes. -/
theorem initRejectsTheWrongChip : Obligations.InitRejectsTheWrongChip := by
  intro s k q hs hk hq hports hends herr hid
  have ⟨_, _, _, _, hh, _⟩ := hs
  obtain ⟨t, ht, hadv, hlatches, hcnt⟩ := init_rejected hs hk hq hends herr (hports q (by omega)) hid
  obtain ⟨u, hu, hraises, hhandle, hstatus, hcnt'⟩ := init_raises hs ht hadv hh
  exact ⟨u, hu, handleKept_trans hadv.handle hhandle, latchesAfter_of_statusKept hlatches hstatus,
    hcnt'.trans hcnt, hraises⟩

end Sys2Proof.Machine
end

section
/-! Proofs. IRQ_HANDLER (60_exceptions.md R285): one status read, then the dispatch, which is two notifications
(`irqDispatch_eq`) and cannot fail. -/

namespace Sys2Proof.Machine

/-! ## The dispatch -/

/-- The events of the notification of a bit (R285, R287). -/
def State.noticeEvents (s : State) (bit : Bool) (kind : EventKind) : List Event :=
  if bit && s.eventCbPresent then [.event kind] else []

/-- The state after the notification of a bit, if it is set. -/
def State.noticed (s : State) (bit : Bool) (kind : EventKind) : State :=
  { s with trace := s.trace ++ s.noticeEvents bit kind }

theorem noticed_calls (s : State) (bit : Bool) (kind : EventKind) :
    Calls s 0 (s.noticeEvents bit kind) (s.noticed bit kind) :=
  ⟨⟨handleKept_refl s, instanceKept_refl s, rfl, rfl, rfl, fun k => by rw [Nat.zero_add]; rfl⟩, ⟨rfl, rfl⟩, rfl⟩

theorem noticed_of_no_event {s : State} {bit : Bool} {kind : EventKind} (h : s.noticeEvents bit kind = []) :
    s.noticed bit kind = s := by
  simp [State.noticed, h]

/-- A bit that is not set is not notified. -/
theorem noticed_false (s : State) (kind : EventKind) : s.noticed false kind = s := noticed_of_no_event rfl

/-- All that `EVENT` can come to when the port call returns (R285, R287). -/
theorem notify_returns {s : State} (hh : s.hang = none) (kind : EventKind) :
    notify kind s = .ok (s.noticed true kind) := by
  cases hsink : s.eventCbPresent with
  | true => simp [notify, portReturns_none hh, State.noticed, State.noticeEvents, State.emit, hsink]
  | false =>
      rw [noticed_of_no_event (by simp [State.noticeEvents, hsink]), notify, hsink]
      rfl

/-- The state that the dispatch leaves: EOM notified, the flag raised by INT, INT notified (R285). -/
def State.irqDispatched (s : State) : State :=
  ((s.noticed s.eom .eom).setInterruptDone (s.interruptDone || s.int)).noticed s.int .int

theorem irqDispatch_eq {s : State} (hh : s.hang = none) : irqDispatch s = .ok s.irqDispatched := by
  have heom : (if s.eom then notify .eom s else .ok s) = .ok (s.noticed s.eom .eom) := by
    cases s.eom with
    | true => exact notify_returns hh .eom
    | false => rw [noticed_false]; rfl
  have hint : (s.noticed s.eom .eom).int = s.int := rfl
  rw [irqDispatch, heom, andThen_ok, hint, State.irqDispatched]
  cases s.int with
  | true =>
      rw [Bool.or_true, if_pos rfl]
      exact notify_returns (s := (s.noticed s.eom .eom).setInterruptDone true) hh .int
  | false =>
      rw [noticed_false, Bool.or_false]
      rfl

theorem Advance.setInterruptDone {s t : State} {n : Nat} {es : List Event} (h : Advance s n es t) (b : Bool) :
    Advance (s.setInterruptDone b) n es (t.setInterruptDone b) := by
  obtain ⟨hchip, haddr, hvol, hinit, -⟩ := h.handle
  exact ⟨⟨hchip, haddr, hvol, hinit, rfl⟩, h.inst, h.apcTmp, h.hang, h.trace, h.answers⟩

/-- `int` of the status word that the status frame at port call `k` delivers (R28). -/
def State.intAt (s : State) (k : Nat) : Bool := (s.status1At k).getLsbD s.params.s1Int

/-- `eom` of that word. -/
def State.eomAt (s : State) (k : Nat) : Bool := (s.status1At k).getLsbD s.params.s1Eom

/-- The dispatch after the status read at port call `k`, counted from the operation's start. -/
theorem irqDispatched_advance {s t : State} {n k : Nat} {es : List Event} (h : Advance s n es t)
    (hlatched : latched s t k) :
    Advance (s.setInterruptDone (s.interruptDone || s.intAt k)) n
      (es ++ s.noticeEvents (s.eomAt k) .eom ++ s.noticeEvents (s.intAt k) .int) t.irqDispatched := by
  obtain ⟨-, -, -, -, hdone⟩ := h.handle
  obtain ⟨-, hsink, hparams, -⟩ := h.inst
  have heom : t.eom = s.eomAt k := by rw [State.eom, hlatched.1, hparams, State.eomAt]
  have hint : t.int = s.intAt k := by rw [State.int, hlatched.1, hparams, State.intAt]
  have hnotices : ∀ bit kind, t.noticeEvents bit kind = s.noticeEvents bit kind := fun bit kind => by
    rw [State.noticeEvents, State.noticeEvents, hsink]
  have hfirst := (h.trans (noticed_calls t t.eom .eom).toAdvance).setInterruptDone (t.interruptDone || t.int)
  have hboth := hfirst.trans (noticed_calls _ t.int .int).toAdvance
  rw [← heom, ← hint, ← hdone, ← hnotices, ← hnotices]
  exact hboth

/-! ## The operation -/

theorem irqHandler_eq_finish {s : State} (hs : s.ready) :
    execHost .irqHandler s
      = finish ((statusRead 0 (s.setSeq .commandIssued)).andThen irqDispatch) noData := by
  obtain ⟨hseq, hinit, -, -⟩ := hs
  exact gated_of_initialized hseq hinit

section
variable {s : State} (hs : s.ready)
include hs

theorem irqHandler_dispatches (hread : (s.answerAt 0).ok = true)
    (hclear : s.irqAt 0 = true → (s.answerAt 1).ok = true) :
    ∃ t, execHost .irqHandler s = .next t ∧ endedWith t .ok ∧ latched s t 0 ∧ t.timeoutCnt = s.timeoutCnt
      ∧ handleKept (s.setInterruptDone (s.interruptDone || s.intAt 0)) t ∧ instanceKept s t ∧ t.apcTmp = s.apcTmp
      ∧ t.trace = s.trace ++ s.statusEvents 0 0 ++ s.noticeEvents (s.eomAt 0) .eom
          ++ s.noticeEvents (s.intAt 0) .int := by
  have ⟨_, _, hp, hh⟩ := hs
  obtain ⟨u, hu, hadv, hlatched, hcnt⟩ :=
    statusRead_ok_at (Advance.setSeq s .commandIssued) hh hp 0 hread hclear
  have hend := endedAt_endOk u.irqDispatched none
  obtain ⟨htrace, hhandle, hinst, hapc⟩ := hend.advance (irqDispatched_advance hadv hlatched)
  refine ⟨_, ?_, hend.ended, hend.latched hlatched, hend.cnt.trans hcnt, hhandle, hinst, hapc, ?_⟩
  · rw [irqHandler_eq_finish hs, hu, andThen_ok, irqDispatch_eq (hadv.hang.trans hh)]
    rfl
  · simpa using htrace

/-- Nothing is dispatched after a status read that fails (R285). -/
theorem irqHandler_readFails (hfails : s.readFails 0) :
    ∃ t, execHost .irqHandler s = .next t ∧ endedWith t .communicationFailure
      ∧ (if (s.answerAt 0).ok then latched s t 0 else statusKept s t) ∧ t.timeoutCnt = s.timeoutCnt
      ∧ handleKept s t ∧ instanceKept s t ∧ t.apcTmp = s.apcTmp ∧ t.trace = s.trace ++ s.failedReadEvents 0 := by
  have ⟨_, _, hp, hh⟩ := hs
  obtain ⟨u, m, hu, hadv, hlatches, hcnt⟩ :=
    statusRead_failed_at (Advance.setSeq s .commandIssued) hh hp 0 hfails
  have hend := endedAt_endErr .communicationFailure u
  obtain ⟨htrace, hhandle, hinst, hapc⟩ := hend.advance hadv
  refine ⟨_, by rw [irqHandler_eq_finish hs, hu]; rfl, hend.ended, ?_, hend.cnt.trans hcnt, hhandle, hinst, hapc,
    htrace⟩
  cases hread : (s.answerAt 0).ok with
  | true => rw [hread, if_pos rfl] at hlatches; exact hend.latched hlatches
  | false => rw [hread, if_neg Bool.false_ne_true] at hlatches; exact hend.keepsStatus hlatches

end

/-! ## The obligation -/

/-- Settles O53: `irqHandler_dispatches`, and the status read of which the second or the first frame fails. -/
theorem irqHandlerDispatchesEomThenInt : Obligations.IrqHandlerDispatchesEomThenInt := by
  refine fun s => ⟨fun hs hread hclear => ?_, fun hs hread hirq hclear => ?_, fun hs hread => ?_,
    fun hseq hinit => gated_needs_init hseq hinit⟩
  · obtain ⟨t, ht, hend, ⟨h1, h2⟩, hcnt, ⟨hchip, haddr, hvol, hinit, hdone⟩, hinst, hapc, htrace⟩ :=
      irqHandler_dispatches hs hread hclear
    exact ⟨t, ht, hend, hdone, htrace, h1, h2, hchip, haddr, hvol, hinit, hinst, hcnt, hapc⟩
  · obtain ⟨t, ht, hend, hlatches, -, hhandle, -, -, htrace⟩ :=
      irqHandler_readFails hs (.inr ⟨hread, hirq, hclear⟩)
    rw [if_pos hread] at hlatches
    exact ⟨t, ht, hend, hhandle, hlatches.1, hlatches.2, by simpa [State.failedReadEvents, hread] using htrace⟩
  · obtain ⟨t, ht, hend, hkept, hcnt, hhandle, hinst, hapc, htrace⟩ := irqHandler_readFails hs (.inl hread)
    rw [if_neg (by simp [hread])] at hkept
    exact ⟨t, ht, hend, ⟨hhandle, hkept, hinst, hcnt, hapc⟩,
      by simpa [State.failedReadEvents, hread] using htrace⟩

end Sys2Proof.Machine
end

section
/-! Proofs. Engine reset (70_reset_and_hazards.md R310 to R312), and a port that never returns (R326, 93 U9):
`State.reset` is itself an engine reset, and every row is its frame and then a rest that a hung frame never reaches. -/

namespace Sys2Proof.Machine

/-! ## Engine reset -/

/-- An engine reset of the machine after engine reset changes nothing (R311). -/
theorem engineReset_reset : State.reset.engineReset = State.reset := rfl

/-- Both states that the statements about reset speak of come from an engine reset. -/
theorem exists_engineReset_of_mem {s t : State} (ht : t ∈ [s.engineReset, State.reset]) :
    ∃ u : State, t = u.engineReset := by
  rcases List.mem_pair.1 ht with rfl | rfl
  · exact ⟨s, rfl⟩
  · exact ⟨State.reset, engineReset_reset.symm⟩

/-- An idle engine with nothing requested stays as it is (R312). -/
theorem step_of_no_input {s : State} (hseq : s.seq = .idle) (hin : s.inputs = []) : step s = .next s := by
  simp [step, hseq, hin]

/-! ## A port that never returns -/

theorem portReturns_hung {s : State} (h : s.hang = some 0) : portReturns s = .stuck := by
  simp [portReturns, h]

/-- A frame whose port call never returns has no end (U9). -/
theorem sendFrame_hung {s : State} (i : Instr) (h : s.hang = some 0) : sendFrame i s = .stuck := by
  have hloaded : (s.loadFrame (encodeWith s.params i)).hang = some 0 := by rw [State.loadFrame_hang, h]
  rw [sendFrame, xfer, exchange, portReturns_hung hloaded, andThen_stuck]

/-- Every row that can start is its frame and then a rest; a range setter's check has passed before (R215, R239). -/
theorem exec_eq_finish_frame {s : State} {i : Instr} (hseq : s.seq = .idle) (hinit : s.initialized = true)
    (hacc : s.accepts i) :
    ∃ rest data, exec i s = finish ((sendFrame i (s.setSeq .commandIssued)).andThen rest) data := by
  cases i with
  | setPlay a b | setRec a b | setErase a b =>
      have hlegal : rangeLegal a b (s.setSeq .commandIssued).endAddress = true := hacc a b (by simp)
      exact ⟨_, noData, (gated_of_initialized hseq hinit).trans
        (congrArg (finish · noData) (rangeCommand_of_legal _ hlegal))⟩
  | rdApc =>
      exact ⟨_, _, (gated_of_initialized hseq hinit).trans (congrArg (finish · _) (andThen_assoc _ _ _))⟩
  | rdStatus | wrApcBtn | wrApcReg | pu | stop | reset | clrInt | rdPlayPtr | pd | rdRecPtr | rdDevid | play | record
  | erase | gErase | wrNvcfg | ldNvcfg | fwd | chkMem | extclk => exact ⟨_, _, gated_of_initialized hseq hinit⟩

/-! ## The obligations -/

/-- Settles O12: `State.reset` needs no case of its own (`exists_engineReset_of_mem`), and a step at the event is
`runInput` of it. -/
theorem resetValuesAreTheTable : Obligations.ResetValuesAreTheTable := by
  refine ⟨fun s => ⟨fun t ht => ?_, rfl, rfl, rfl, rfl⟩, fun s rest hseq hin => ?_⟩
  · obtain ⟨u, rfl⟩ := exists_engineReset_of_mem ht
    exact ⟨rfl, rfl, rfl, rfl, rfl, rfl, rfl, rfl, rfl, step_of_no_input rfl⟩
  · rw [step_of_input hseq hin, runInput]

/-- Settles O16: the first port call of a row is that of its frame. -/
theorem hungPortIsStuck : Obligations.HungPortIsStuck := by
  intro s i hseq hinit hhang hacc
  obtain ⟨rest, data, hexec⟩ := exec_eq_finish_frame hseq hinit hacc
  have hissued : (s.setSeq .commandIssued).hang = some 0 := by rw [State.setSeq_hang, hhang]
  rw [hexec, sendFrame_hung i hissued, andThen_stuck, finish]

/-- Settles O56: the invariant holds after any engine reset. -/
theorem resetMeetsTheInvariant : Obligations.ResetMeetsTheInvariant := by
  have hinv : State.reset.engineReset.Inv := engineReset_inv State.reset
  rwa [engineReset_reset] at hinv

end Sys2Proof.Machine
end
